-- ==== Sys2Proof/Word.lean ====
section
/-! DEFINITION. The bit strings of CCF and the shift and selection helpers of R7. No value is signed (R7, R9). -/

namespace Sys2Proof

/-- A data byte, a table index, a tag byte (R5 `BYTEW`, R72). -/
abbrev Byte := BitVec 8

/-- A table entry, the CRC register, a length or CRC field (R5 `CRCW`, `LENFIELDW`). -/
abbrev Word := BitVec 32

/-- The length operand of CHUNK (R5 `LENW`). -/
abbrev Length := BitVec 64

/-- A command word, format C (R71, R5 `CMDW`). -/
abbrev CommandWord := BitVec 128

/-- An input item in its packed form `p[128:0]` (R73): bit 128 is the kind bit `K`. -/
abbrev Item := BitVec 129

end Sys2Proof
end

