-- ==== Sys2Proof/Config.lean ====
section
/-! DEFINITION. The parameters of R5 that a definition or a claim of this package reads, at the values the spec states.
The widths `CRCW`, `BYTEW`, `LENFIELDW`, `LENW`, `CMDW` are the types of Word.lean, `TYPEW` is the shape of `Tag`, `NCTX` is one
`State`. `P_BINDING` is read by no rule. `P_RESET_GARBAGE` is the argument of the reset step (Machine/HostPort.lean). -/

namespace Sys2Proof

/-- `POLY`, the reflected generator constant (R100). -/
def Config.poly : Word := 0xEDB88320#32

/-- `INITV`, the CRC register at the start of a checksum. -/
def Config.initV : Word := 0xFFFFFFFF#32

/-- `XOROUT`, folded into the register to deliver the result. -/
def Config.xorOut : Word := 0xFFFFFFFF#32

/-- `LENMAX`, the largest payload length accepted (R148, R150). -/
def Config.lenMax : Length := 0xFFFFFFFF#64

/-- `TABLE_N`, the number of table entries. -/
def Config.tableN : Nat := 256

/-- `OVERHEAD`, the bytes a chunk adds to its payload (R146). -/
def Config.overhead : Nat := 12

end Sys2Proof
end

