-- ==== Sys2Proof/Machine/State.lean ====
section
/-! DEFINITION. The architectural state of one CCF instance (R20), as plain data, and the state after reset (R35). -/

namespace Sys2Proof.Machine

/-- `PHASE` (R26). The codes 5 to 7 are never taken, so the type does not have them (log entry 8). -/
inductive Phase where
  | idle
  | init
  | span
  | payload
  | fault
  deriving DecidableEq, Repr

/-- `ERR` (R27): the recorded fault. The codes 5 to 7 are never written, so the type does not have them (log entry 8). -/
inductive Err where
  | none
  | payloadTooLarge
  | tableNotReady
  | illegalCommand
  | sequenceError
  deriving DecidableEq, Repr

/-- An item of `OUT` (R79). -/
inductive OutItem where
  /-- One byte of a chunk, in file order. -/
  | byte (b : Byte)
  /-- The result of one checksum. -/
  | word (w : Word)
  deriving DecidableEq, Repr

/-- The table space (R50): the smallest addressable unit is one whole 32-bit entry, so a cell is (index, entry). Sparse, in the
canonical form `Memory.wf` of Ops.lean (log entry 1). -/
abbrev Memory := List (Nat × Word)

/-- What the fields that R35 leaves unspecified hold after a reset: parameter `P_RESET_GARBAGE`. -/
structure ResetGarbage where
  table : Memory
  crc : Word
  cnt : Word
  idx : Byte
  deriving DecidableEq, Repr

/-- The architectural state: the tuple of R20 with the two stream histories of R30. -/
structure State where
  /-- `TABLE[0..255]` (R21). -/
  table : Memory
  /-- `TV`, table valid (R22). -/
  tv : Bool
  /-- `CRC`, the running register, never complemented in place (R23). -/
  crc : Word
  /-- `CNT`, payload bytes still owed to the open chunk (R24). -/
  cnt : Word
  /-- `IDX`, the next table entry to fill (R25). -/
  idx : Byte
  /-- `PHASE` (R26). -/
  phase : Phase
  /-- `ERR` (R27). -/
  err : Err
  /-- `IN`, the items not yet consumed, head first (R30). -/
  inp : List Item
  /-- `OUT`, the items emitted, oldest first (R30). -/
  out : List OutItem
  deriving DecidableEq, Repr

/-- Why a model step would stop without a next state. The four faults of R200 are not here: the spec describes their entry (R205), so
they are taken, as next states. -/
inductive Fault where
  /-- A meaning was called in phase `INIT`, where no consume step is enabled (R161, R162). Raised by every meaning, on that phase
  only; `step` never raises it. Safe (log entry 6). -/
  | consumeDuringFill
  deriving DecidableEq, Repr

/-- Why the model would refuse an instruction. -/
inductive Refusal where
  /-- An instruction without a meaning. Raised by no arm of `exec`: all six have theirs. Safe. -/
  | notModelled (mnemonic : String)
  deriving DecidableEq, Repr

/-- The fields R35 leaves unspecified, at the values the model names for its reset state (log entries 2 and 3, DESIGN CHOICE). -/
def ResetGarbage.zero : ResetGarbage := { table := [], crc := 0#32, cnt := 0#32, idx := 0#8 }

/-- The state after a reset that leaves `g` in the unspecified fields (R35, R230). -/
def State.resetWith (g : ResetGarbage) : State :=
  { table := g.table, tv := false, crc := g.crc, cnt := g.cnt, idx := g.idx,
    phase := .idle, err := .none, inp := [], out := [] }

/-- The machine right after reset (R35). -/
def State.reset : State := State.resetWith ResetGarbage.zero

end Sys2Proof.Machine
end

