-- ==== Sys2Proof/Syntax.lean ====
section
/-! DEFINITION. The six instructions of the opcode table (R70, R74) with their operands (R75). -/

namespace Sys2Proof

/-- The chunk-type tag, four bytes in emission order (R71, R75). Any values are legal (R149). -/
structure Tag where
  t0 : Byte
  t1 : Byte
  t2 : Byte
  t3 : Byte
  deriving DecidableEq, Repr

/-- One constructor per row of the opcode table. -/
inductive Instr where
  /-- `INIT` (R104). -/
  | init
  /-- `SPAN` (R123). -/
  | span
  /-- `END` (R125). -/
  | endSpan
  /-- `CHUNK TYPE, LEN` (R142). -/
  | chunk (tag : Tag) (len : Length)
  /-- `ABORT` (R160). -/
  | abort
  /-- `DATA B` (R124). -/
  | data (b : Byte)
  deriving DecidableEq, Repr

end Sys2Proof
end

