-- ==== Sys2Proof/Machine/Operands.lean ====
section
/-! DEFINITION. Operand assembly (R75), the serializer (R141) and the packed form of output items (R79). -/

namespace Sys2Proof.Machine

/-- The tag's bytes in emission order (R52, R75). -/
def tagBytes (t : Tag) : List Byte := [t.t0, t.t1, t.t2, t.t3]

/-- A tag written as one 32-bit number in big-endian order, `TYPE = w[95:64]` (R71, R81). -/
def tagOfWord (v : Word) : Tag :=
  ⟨v.extractLsb' 24 8, v.extractLsb' 16 8, v.extractLsb' 8 8, v.extractLsb' 0 8⟩

/-- `LEN > 0xFFFFFFFF`, compared as unsigned 64-bit numbers (R75, R142, R148). -/
def lenTooLarge (len : Length) : Bool := Config.lenMax < len

/-- `n = LEN[31:0]` (R142). -/
def lenLow (len : Length) : Word := len.extractLsb' 0 32

/-- `be32(v) = v[31:24], v[23:16], v[15:8], v[7:0]` (R52, R141). -/
def be32 (v : Word) : List Byte :=
  [v.extractLsb' 24 8, v.extractLsb' 16 8, v.extractLsb' 8 8, v.extractLsb' 0 8]

/-- A byte sequence as `BYTE` items, in order (R8). -/
def byteItems (l : List Byte) : List OutItem := l.map OutItem.byte

/-- The packed form `q[32:0]` of an output item (R79). -/
def packOut : OutItem → BitVec 33
  | .byte b => b.setWidth 33
  | .word w => (1#33 <<< 32) ||| w.setWidth 33

/-- The byte stream a file is built from: the `BYTE` items of `OUT`, in order (R30). -/
def fileBytes : List OutItem → List Byte
  | [] => []
  | .byte b :: r => b :: fileBytes r
  | .word _ :: r => fileBytes r

end Sys2Proof.Machine
end

