-- ==== Sys2Proof/WellFormed.lean ====
section
/-! DEFINITION. Which packed items are legal encodings (R73, R76, R77), written from the opcode table's mask and match columns and
not from the decoder. The operands of an `Instr` are bit strings of exactly the widths the encoding gives them, so an ill-formed
instruction cannot be written down: the checks are on items. -/

namespace Sys2Proof

/-- One row of the opcode table over the 129-bit packed item (R73). -/
structure OpcodeRow where
  mnemonic : String
  mask : Item
  pattern : Item
  deriving DecidableEq, Repr

/-- The six rows of the opcode table, in its order. -/
def opcodeRows : List OpcodeRow :=
  [ ⟨"INIT",  0x1ffffffffffffffffffffffffffffffff#129, 0x101000000000000000000000000000000#129⟩,
    ⟨"SPAN",  0x1ffffffffffffffffffffffffffffffff#129, 0x102000000000000000000000000000000#129⟩,
    ⟨"END",   0x1ffffffffffffffffffffffffffffffff#129, 0x103000000000000000000000000000000#129⟩,
    ⟨"CHUNK", 0x1ffffffff000000000000000000000000#129, 0x104000000000000000000000000000000#129⟩,
    ⟨"ABORT", 0x1ffffffffffffffffffffffffffffffff#129, 0x105000000000000000000000000000000#129⟩,
    ⟨"DATA",  0x1ffffffffffffffffffffffffffffff00#129, 0x000000000000000000000000000000000#129⟩ ]

/-- The item matches the row. -/
def OpcodeRow.fits (r : OpcodeRow) (p : Item) : Bool := (p &&& r.mask) == r.pattern

/-- An item is legal when it matches a row of the table; every other item is illegal (R77). -/
def Item.legal (p : Item) : Bool := opcodeRows.any (fun r => r.fits p)

/-- The mnemonic of an instruction, as the table spells it. -/
def Instr.mnemonic : Instr → String
  | .init => "INIT"
  | .span => "SPAN"
  | .endSpan => "END"
  | .chunk _ _ => "CHUNK"
  | .abort => "ABORT"
  | .data _ => "DATA"

end Sys2Proof
end

