-- ==== Sys2Proof/Decode.lean ====
section
/-! DEFINITION. Decoding an item (R80), the encoder written from the formats of R71 to R73, and the entry the host uses. Decoding
depends on the item alone (R78, R80) and is total: `none` is the spec's ILLEGAL (R77). -/

namespace Sys2Proof

/-! ### Fields of a packed item (R71 to R73) -/

/-- `K = p[128]` (R73): true for a command item, class C. -/
def Item.kind (p : Item) : Bool := p.getLsbD 128

/-- The command word `p[127:0]` of a class C item (R73). -/
def Item.command (p : Item) : CommandWord := p.extractLsb' 0 128

/-- The padding `p[127:8]` of a class D item, which must be zero (R73). -/
def Item.padding (p : Item) : BitVec 120 := p.extractLsb' 8 120

/-- The byte `B = p[7:0]` of a class D item (R72). -/
def Item.dataByte (p : Item) : Byte := p.extractLsb' 0 8

/-- `OP = w[127:120]` (R71). -/
def CommandWord.op (w : CommandWord) : Byte := w.extractLsb' 120 8

/-- `RSV = w[119:96]` (R71). -/
def CommandWord.rsv (w : CommandWord) : BitVec 24 := w.extractLsb' 96 24

/-- `w[95:0]`: `TYPE` and `LEN` together (R71), which a command without operands requires zero (R76). -/
def CommandWord.operands (w : CommandWord) : BitVec 96 := w.extractLsb' 0 96

/-- `type = (w[95:88], w[87:80], w[79:72], w[71:64])` (R71, R75). -/
def CommandWord.tag (w : CommandWord) : Tag :=
  ⟨w.extractLsb' 88 8, w.extractLsb' 80 8, w.extractLsb' 72 8, w.extractLsb' 64 8⟩

/-- `len = w[63:0]` (R71, R75). -/
def CommandWord.len (w : CommandWord) : Length := w.extractLsb' 0 64

/-! ### Decode (R80) -/

/-- A command without operands: `TYPE` and `LEN` must be zero (R76). -/
def noOperands (w : CommandWord) (i : Instr) : Option Instr :=
  if w.operands = 0#96 then some i else none

/-- Decoding a command word by `OP`, once `RSV` is known to be zero (R74, R80). -/
def decodeOp (w : CommandWord) : Option Instr :=
  if w.op = 0x01#8 then noOperands w .init
  else if w.op = 0x02#8 then noOperands w .span
  else if w.op = 0x03#8 then noOperands w .endSpan
  else if w.op = 0x04#8 then some (.chunk w.tag w.len)
  else if w.op = 0x05#8 then noOperands w .abort
  else none

/-- Decoding a command word (R80). -/
def decodeCommand (w : CommandWord) : Option Instr :=
  if w.rsv = 0#24 then decodeOp w else none

/-- Decoding a packed item, total on all 129-bit values; `none` is ILLEGAL (R77, R80). -/
def decode (p : Item) : Option Instr :=
  if p.kind then decodeCommand p.command
  else if p.padding = 0#120 then some (.data p.dataByte)
  else none

/-! ### Encode (R71 to R74) -/

/-- A field of a packed item: the value `v` with its bit 0 at bit `lo`. -/
def Item.field {w : Nat} (v : BitVec w) (lo : Nat) : Item := v.setWidth 129 <<< lo

/-- A class C item from its fields: `K = 1`, `OP`, `RSV = 0`, `T0 .. T3`, `LEN` at the places of R71 and R73, in the form
`(OP << 120) | (TYPE << 64) | LEN` of R76. -/
def commandItem (op : Byte) (t : Tag) (len : Length) : Item :=
  Item.field 1#1 128 ||| Item.field op 120 |||
    Item.field t.t0 88 ||| Item.field t.t1 80 ||| Item.field t.t2 72 ||| Item.field t.t3 64 |||
    Item.field len 0

/-- The tag field of a command without operands (R76). -/
def zeroTag : Tag := ⟨0#8, 0#8, 0#8, 0#8⟩

/-- The packed item of an instruction (R73, R74). -/
def encode : Instr → Item
  | .init => commandItem 0x01#8 zeroTag 0#64
  | .span => commandItem 0x02#8 zeroTag 0#64
  | .endSpan => commandItem 0x03#8 zeroTag 0#64
  | .chunk t len => commandItem 0x04#8 t len
  | .abort => commandItem 0x05#8 zeroTag 0#64
  | .data b => Item.field b 0

/-! ### The host's entry -/

/-- The item whose packed bits are the low `nbits` bits of `w`, numbered as the opcode table numbers them, the bits above being 0; a
number with a bit above 128 is no item (R73). -/
def tableItem (nbits w : Nat) : Option Item :=
  if w % 2 ^ nbits < 2 ^ 129 then some (BitVec.ofNat 129 (w % 2 ^ nbits)) else none

/-- What `decode` reads from the opcode-table word `w`. -/
def decodeTableWord (nbits w : Nat) : Option Instr :=
  match tableItem nbits w with
  | some p => decode p
  | none => none

end Sys2Proof
end

