-- ==== Sys2Proof/Machine/Ops.lean ====
section
/-! DEFINITION. The named operations over the table and the registers, the fault entry and return, the gate every consumed
instruction passes, and which step is enabled. -/

namespace Sys2Proof.Machine

/-! ### The table space (R50, R51) -/

/-- What an unlisted entry reads as (log entry 2, DESIGN CHOICE). -/
def Memory.unlisted : Word := 0#32

/-- The value of entry `a`: one whole entry, no side effect (R51). -/
def Memory.read : Memory → Nat → Word
  | [], _ => Memory.unlisted
  | (k, v) :: r, a => if k = a then v else Memory.read r a

/-- Put a cell in front unless it is what an unlisted entry reads as anyway. -/
def Memory.cons (a : Nat) (v : Word) (r : Memory) : Memory :=
  if v = Memory.unlisted then r else (a, v) :: r

/-- Write entry `a`, and nothing else (R51), keeping the canonical form. -/
def Memory.write : Memory → Nat → Word → Memory
  | [], a, v => Memory.cons a v []
  | (k, w) :: r, a, v =>
    if a < k then Memory.cons a v ((k, w) :: r)
    else if a = k then Memory.cons a v r
    else (k, w) :: Memory.write r a v

/-- Indices strictly rising from `lo`, inside the table, and no cell equal to what an unlisted entry reads as. -/
def Memory.wfFrom : Nat → Memory → Bool
  | _, [] => true
  | lo, (k, v) :: r => decide (lo ≤ k) && decide (k < Config.tableN) && decide (v ≠ Memory.unlisted) && Memory.wfFrom (k + 1) r

/-- The canonical form: equal tables are equal lists. -/
def Memory.wf (m : Memory) : Bool := Memory.wfFrom 0 m

/-- `MemRead(i, 4)`, written `TABLE[i]` (R8). -/
def State.tableRead (s : State) (i : Byte) : Word := Memory.read s.table i.toNat

/-- `MemWrite(i, 4, v)`, written `TABLE[i] <- v` (R8). -/
def State.tableWrite (s : State) (i : Byte) (v : Word) : State :=
  { s with table := Memory.write s.table i.toNat v }

/-! ### Registers and streams -/

/-- `PHASE <- p` (R8). -/
def State.setPhase (s : State) (p : Phase) : State := { s with phase := p }

/-- `CRC <- v`. -/
def State.setCrc (s : State) (v : Word) : State := { s with crc := v }

/-- `CNT <- v`. -/
def State.setCnt (s : State) (v : Word) : State := { s with cnt := v }

/-- `IDX <- v`. -/
def State.setIdx (s : State) (v : Byte) : State := { s with idx := v }

/-- `TV <- 1` (R105). No step but reset clears it (R22). -/
def State.setValid (s : State) : State := { s with tv := true }

/-- `emit` the items of `l` in order: they are appended at the tail of `OUT` (R8, R30). -/
def State.emit (s : State) (l : List OutItem) : State := { s with out := s.out ++ l }

/-- Remove the head of `IN`, leaving `rest` (R161 (c)). -/
def State.dropHead (s : State) (rest : List Item) : State := { s with inp := rest }

/-! ### Faults (R205, R208) -/

/-- `raise E` (R8, R205): `ERR <- e`, `PHASE <- FAULT`, and nothing else. There is no saved state, no vector, no mode. -/
def State.raise (s : State) (e : Err) : State := { s with err := e, phase := .fault }

/-- The fault return, and `ABORT` in every phase (R160, R208): `ERR <- 0`, `PHASE <- IDLE`, and nothing else. -/
def State.toIdle (s : State) : State := { s with err := .none, phase := .idle }

/-! ### The gate of a consumed item (R163, R164) -/

/-- What a consumed item other than a legal `ABORT` does: in phase `FAULT` it is discarded (R163), elsewhere it acts. In phase `INIT` no
item is consumed (R161): a call there stops by name (log entry 6). -/
def State.consuming (s : State) (act : State → State) : Host.Outcome State Fault Refusal :=
  match s.phase with
  | .init => .fault .consumeDuringFill
  | .fault => .next s
  | .idle | .span | .payload => .next (act s)

/-- What an illegal item does (R77, R203, R163). -/
def consumeIllegal (s : State) : Host.Outcome State Fault Refusal :=
  s.consuming (fun s => s.raise .illegalCommand)

/-! ### Which step is enabled (R161) -/

/-- The block's own steps: the fill, the consumption of a legal or an illegal item, or none. -/
inductive Enabled where
  /-- (b) the internal fill step. -/
  | fill
  /-- (c) the head of `IN` decodes to `i`; `s` is the state with that item removed. -/
  | item (i : Instr) (s : State)
  /-- (c) the head of `IN` is illegal; `s` is the state with that item removed. -/
  | illegal (s : State)
  /-- `IN` is empty: the block waits, which is no error in any phase. -/
  | waiting
  deriving DecidableEq, Repr

/-- The consume step that the head of `IN` enables outside phase `INIT` (R161 (c)). -/
def fetch (s : State) : Enabled :=
  match s.inp with
  | [] => .waiting
  | p :: rest =>
    match decode p with
    | some i => .item i (s.dropHead rest)
    | none => .illegal (s.dropHead rest)

/-- The step that is enabled (R161). -/
def enabled (s : State) : Enabled :=
  match s.phase with
  | .init => .fill
  | .idle | .span | .payload | .fault => fetch s

/-- Present an opcode-table word as the next item to be consumed: the item is put at the head of `IN`, and the block is taken out of
phase `INIT`, where nothing is consumed (log entry 10). A number that is no item presents nothing. -/
def presentTableWord (s : State) (nbits w : Nat) : State :=
  match tableItem nbits w with
  | some p => { s with inp := p :: s.inp, phase := if s.phase = .init then .idle else s.phase }
  | none => s

end Sys2Proof.Machine
end

