-- ==== Sys2Proof/Machine/Reducer.lean ====
section
/-! DEFINITION. The polynomial reducer (R100 to R103), the fill step (R105) and the meaning of INIT (R104, R107). -/

namespace Sys2Proof.Machine

/-- One step of the reducer (R101). -/
def reduce1 (c : Word) : Word :=
  if c.getLsbD 0 then (c >>> 1) ^^^ Config.poly else c >>> 1

/-- The reducer applied to one byte position: `reduce1` eight times (R102). -/
def reduce8 (c : Word) : Word :=
  reduce1 (reduce1 (reduce1 (reduce1 (reduce1 (reduce1 (reduce1 (reduce1 c)))))))

/-- `TABLE_REF(n) = reduce8(zext_32(n))` (R103). -/
def tableRef (n : Byte) : Word := reduce8 (n.setWidth 32)

/-- The table's contents after initialisation, in canonical form: one whole pass of ascending writes (R106, R108). Irreducible, so that
no unifier evaluates the 256 writes. -/
@[irreducible] def referenceTable : Memory :=
  (List.range Config.tableN).foldl (fun m k => Memory.write m k (tableRef (BitVec.ofNat 8 k))) []

/-- Open the fill: `IDX <- 0`, `PHASE <- INIT` (R104). -/
def State.beginFill (s : State) : State := (s.setIdx 0#8).setPhase .init

/-- What the fill step does after its table write: the last entry makes the table valid and ends the phase, any other moves on
(R105). -/
def State.advanceFill (s : State) : State :=
  if s.idx = 255#8 then s.setValid.setPhase .idle else s.setIdx (s.idx + 1#8)

/-- The fill step, the only step enabled in phase `INIT` (R105, R161 (b)). -/
def fillStep (s : State) : State :=
  (s.tableWrite s.idx (reduce8 (s.idx.setWidth 32))).advanceFill

/-- What INIT does outside phases `INIT` and `FAULT` (R104, R107, R204). -/
def initAct (s : State) : State :=
  match s.phase with
  | .idle => if s.tv then s else s.beginFill
  | .init | .span | .payload | .fault => s.raise .sequenceError

/-- INIT (R104). -/
def execInit (s : State) : Host.Outcome State Fault Refusal := s.consuming initAct

end Sys2Proof.Machine
end

