-- ==== Sys2Proof/Machine/Lookup.lean ====
section
/-! DEFINITION. The lookup engine: `crc_update` (R120), the function `crc32` (R121), and the meanings of SPAN (R123) and END (R125). -/

namespace Sys2Proof.Machine

/-- The index of the table entry that the lookup step reads: `(r ^ zext_32(b)) & 0xFF` (R120). -/
def lookupIndex (r : Word) (b : Byte) : Byte := (r ^^^ b.setWidth 32).extractLsb' 0 8

/-- `crc_update(r, b) = TABLE[(r ^ zext_32(b)) & 0xFF] ^ (r >> 8)` (R120), one table read. -/
def State.crcUpdate (s : State) (r : Word) (b : Byte) : Word :=
  s.tableRead (lookupIndex r b) ^^^ (r >>> 8)

/-- The register advanced over a byte sequence, first byte first (R121, R128). -/
def State.crcOver (s : State) (r : Word) (l : List Byte) : Word := l.foldl s.crcUpdate r

/-- The complement the block delivers: `~r = r ^ XOROUT` (R5, R121). -/
def complement (r : Word) : Word := r ^^^ Config.xorOut

/-- `crc_update` over the reference table (R120 with R28 (e)). -/
def crcUpdateRef (r : Word) (b : Byte) : Word := tableRef (lookupIndex r b) ^^^ (r >>> 8)

/-- `crc32(s)`, the checksum of a byte sequence (R121): start at `INITV`, advance over every byte, complement. -/
def crc32 (l : List Byte) : Word := complement (l.foldl crcUpdateRef Config.initV)

/-- What SPAN does outside phases `INIT` and `FAULT` (R123, R202, R204). -/
def spanAct (s : State) : State :=
  match s.phase with
  | .idle => if s.tv then (s.setCrc Config.initV).setPhase .span else s.raise .tableNotReady
  | .init | .span | .payload | .fault => s.raise .sequenceError

/-- SPAN (R123). -/
def execSpan (s : State) : Host.Outcome State Fault Refusal := s.consuming spanAct

/-- What END does outside phases `INIT` and `FAULT`: `CRC` itself is not changed (R23, R125, R204). -/
def endAct (s : State) : State :=
  match s.phase with
  | .span => (s.emit [.word (complement s.crc)]).setPhase .idle
  | .idle | .init | .payload | .fault => s.raise .sequenceError

/-- END (R125). -/
def execEnd (s : State) : Host.Outcome State Fault Refusal := s.consuming endAct

end Sys2Proof.Machine
end

