-- ==== Sys2Proof/Machine/Framer.lean ====
section
/-! DEFINITION. The chunk framer: the layout `chunk` (R140) and the meaning of CHUNK (R142), and DATA (R124), whose payload arm is the framer's (R143). -/

namespace Sys2Proof.Machine

/-- The bytes of a chunk (R140): length, tag, payload, CRC of tag and payload (R147). -/
def chunkBytes (t : Tag) (p : List Byte) : List Byte :=
  be32 (BitVec.ofNat 32 p.length) ++ tagBytes t ++ p ++ be32 (crc32 (tagBytes t ++ p))

/-- Close a chunk: `emit be32(~CRC)`, `PHASE <- IDLE` (R142, R143). -/
def State.closeChunk (s : State) : State :=
  (s.emit (byteItems (be32 (complement s.crc)))).setPhase .idle

/-- Close the open chunk if no payload byte is owed, otherwise stay in or enter phase `PAYLOAD` (R142, R143). -/
def State.closeIfPaid (s : State) : State :=
  if s.cnt = 0#32 then s.closeChunk else s.setPhase .payload

/-- Open a chunk of `n` payload bytes: emit its header, advance the register over its tag, load the count (R142). -/
def State.openChunk (s : State) (t : Tag) (n : Word) : State :=
  (((s.emit (byteItems (be32 n ++ tagBytes t))).setCrc (s.crcOver Config.initV (tagBytes t))).setCnt n).closeIfPaid

/-- What CHUNK does outside phases `INIT` and `FAULT`, the faults in the order of R206 (R142, R148, R202, R204). -/
def chunkAct (t : Tag) (len : Length) (s : State) : State :=
  match s.phase with
  | .idle =>
    if s.tv then
      if lenTooLarge len then s.raise .payloadTooLarge else s.openChunk t (lenLow len)
    else s.raise .tableNotReady
  | .init | .span | .payload | .fault => s.raise .sequenceError

/-- CHUNK (R142). -/
def execChunk (t : Tag) (len : Length) (s : State) : Host.Outcome State Fault Refusal := s.consuming (chunkAct t len)

/-- The payload step (R143): pass the byte, advance the register, count it, and close the chunk after the last. -/
def payloadStep (b : Byte) (s : State) : State :=
  (((s.emit [.byte b]).setCrc (s.crcUpdate s.crc b)).setCnt (s.cnt - 1#32)).closeIfPaid

/-- What DATA does outside phases `INIT` and `FAULT` (R124, R143, R204). -/
def dataAct (b : Byte) (s : State) : State :=
  match s.phase with
  | .span => s.setCrc (s.crcUpdate s.crc b)
  | .payload => payloadStep b s
  | .idle | .init | .fault => s.raise .sequenceError

/-- DATA (R124). -/
def execData (b : Byte) (s : State) : Host.Outcome State Fault Refusal := s.consuming (dataAct b)

end Sys2Proof.Machine
end

