-- ==== Sys2Proof/Machine/Sequencing.lean ====
section
/-! DEFINITION. The meaning of ABORT (R160), the fault return (R208). -/

namespace Sys2Proof.Machine

/-- ABORT (R160): in every phase in which an item can be consumed, `FAULT` among them, `ERR <- 0` and `PHASE <- IDLE`. It raises
nothing; in phase `INIT` no item is consumed (R161, log entry 6). -/
def execAbort (s : State) : Host.Outcome State Fault Refusal :=
  match s.phase with
  | .init => .fault .consumeDuringFill
  | .idle | .span | .payload | .fault => .next s.toIdle

end Sys2Proof.Machine
end

