-- ==== Sys2Proof/Machine/Dispatch.lean ====
section
/-! DEFINITION. The dispatch: one arm per constructor of Instr, each a direct call of its meaning (R164). -/

namespace Sys2Proof.Machine

def exec (i : Instr) (s : State) : Host.Outcome State Fault Refusal :=
  match i with
  | .init => Sys2Proof.Machine.execInit s
  | .span => Sys2Proof.Machine.execSpan s
  | .endSpan => Sys2Proof.Machine.execEnd s
  | .chunk t len => Sys2Proof.Machine.execChunk t len s
  | .abort => Sys2Proof.Machine.execAbort s
  | .data b => Sys2Proof.Machine.execData b s

end Sys2Proof.Machine
end

