-- ==== Sys2Proof/Machine/Step.lean ====
section
/-! DEFINITION. One step of the block (R161): fill in phase INIT, else consume the head of IN, else wait. The reset step is the host's
(Machine/HostPort.lean). -/

namespace Sys2Proof.Machine

/-- One step. A waiting block keeps all its state (R161, R213; log entry 5). -/
def step (s : State) : Host.Outcome State Fault Refusal :=
  match enabled s with
  | .fill => .next (fillStep s)
  | .item i s' => exec i s'
  | .illegal s' => consumeIllegal s'
  | .waiting => .next s

/-- `s` with the opcode-table word `w` as the item that `step` consumes next. -/
def State.withFetchWord (s : State) (nbits w : Nat) : State := presentTableWord s nbits w

end Sys2Proof.Machine
end

