-- ==== Sys2Proof/Machine/Flags.lean ====
section
/-! DEFINITION. The status register. CCF has no condition flags (R32): the only status is `STATUS`, register number 0, read-only
(R29), a function of `TV`, `PHASE` and `ERR`, and the fault line a system may derive from it (R210). -/

namespace Sys2Proof.Machine

/-- The 3-bit code of a phase (R26). -/
def phaseCode : Phase → BitVec 3
  | .idle => 0#3
  | .init => 1#3
  | .span => 2#3
  | .payload => 3#3
  | .fault => 4#3

/-- The 3-bit code of `ERR` (R27, R200). -/
def errCode : Err → BitVec 3
  | .none => 0#3
  | .payloadTooLarge => 1#3
  | .tableNotReady => 2#3
  | .illegalCommand => 3#3
  | .sequenceError => 4#3

/-- `STATUS = zext_32({ERR, PHASE, TV})`: `ERR` at 6:4, `PHASE` at 3:1, `TV` at 0 (R29). Reading it has no side effect. -/
def State.status (s : State) : Word :=
  (errCode s.err).setWidth 32 <<< 4 ||| (phaseCode s.phase).setWidth 32 <<< 1 ||| (BitVec.ofBool s.tv).setWidth 32

/-- The fault line a system may derive: `ERR != 0` (R210). -/
def State.faultLine (s : State) : Bool := decide (s.err ≠ .none)

end Sys2Proof.Machine
end

