-- ==== Sys2Proof/Machine/HostPort.lean ====
section
/-! DEFINITION. What the host can do to the block (R161 (a), R180, R230): the steps of the whole system, one event at a time. Reading
`OUT` and `STATUS` (State.status) changes nothing (R29, R30). -/

namespace Sys2Proof.Machine

/-- One event (log entry 12). -/
inductive Event where
  /-- The host asserts the reset input. `g` is whatever R35 leaves unspecified (log entry 4). -/
  | reset (g : ResetGarbage)
  /-- The host appends an item at the tail of `IN`. -/
  | append (p : Item)
  /-- The block makes a step of its own. -/
  | block
  deriving DecidableEq, Repr

/-- The reset step (R230), enabled in every state: nothing of the state before survives. -/
def resetStep (_s : State) (g : ResetGarbage) : State := State.resetWith g

/-- The host appends an item (R30, R180 row 2). -/
def State.hostAppend (s : State) (p : Item) : State := { s with inp := s.inp ++ [p] }

/-- One event. Every event of the host is tolerated in every state (R180). -/
def act (e : Event) (s : State) : Host.Outcome State Fault Refusal :=
  match e with
  | .reset g => .next (resetStep s g)
  | .append p => .next (s.hostAppend p)
  | .block => step s

/-- A list of events, in order, stopping at the first stop. -/
def actAll : List Event → State → Host.Outcome State Fault Refusal
  | [], s => .next s
  | e :: r, s =>
    match act e s with
    | .next t => actAll r t
    | .fault f => .fault f
    | .refused f => .refused f

end Sys2Proof.Machine
end

