-- ==== Sys2Proof/Machine/HostPrograms.lean ====
section
/-! DEFINITION. Host programs: the pseudo-instructions (R82), the two operations a host asks for (R126, R144, R236), and the command
sequences of a PNG file with the host's own checks and errors (R181 to R187). -/

namespace Sys2Proof.Machine

/-- `BYTES b0 .. bn` (R82). -/
def bytesProgram (l : List Byte) : List Instr := l.map Instr.data

/-- `CHECKSUM <bytes>` (R82). -/
def checksumProgram (l : List Byte) : List Instr := .span :: (bytesProgram l ++ [.endSpan])

/-- `BUILDCHUNK <tag>, <bytes>` (R82): the true length is declared (R183). A payload of 2^64 bytes or more has a length that fits no `LEN`
field (R81) and R82 gives no expansion for it: there the length is declared modulo 2^64, the model's choice (log entry 21, DESIGN
CHOICE). -/
def buildChunkProgram (t : Tag) (l : List Byte) : List Instr :=
  .chunk t (BitVec.ofNat 64 l.length) :: bytesProgram l

/-- The items of a program, as the host appends them. -/
def itemsOf (l : List Instr) : List Item := l.map encode

/-- The two operations of a host that keeps its duties (R180 rows 4 and 5). -/
inductive HostOp where
  | checksum (l : List Byte)
  | buildChunk (t : Tag) (l : List Byte)
  deriving DecidableEq, Repr

/-- The instructions of an operation (R82). -/
def opProgram : HostOp → List Instr
  | .checksum l => checksumProgram l
  | .buildChunk t l => buildChunkProgram t l

/-- What an operation delivers (R126, R144). -/
def opOutput : HostOp → List OutItem
  | .checksum l => [.word (crc32 l)]
  | .buildChunk t l => byteItems (chunkBytes t l)

/-- The operation can be performed: a payload length must fit in 32 bits (R148). A checksum has no limit (R124). -/
def opAdmissible : HostOp → Bool
  | .checksum _ => true
  | .buildChunk _ l => decide (l.length ≤ 0xFFFFFFFF)

/-- The instructions of a list of operations, in order. -/
def opsProgram (l : List HostOp) : List Instr := l.flatMap opProgram

/-- What a list of operations delivers, in order (R236). -/
def opsOutput (l : List HostOp) : List OutItem := l.flatMap opOutput

/-! ### The PNG file -/

/-- The errors the host raises itself (R186). They have no code in `ERR` and the block cannot detect them. -/
inductive HostError where
  | invalidDimensions
  | compressionFailure
  | pixelSourceFailure
  deriving DecidableEq, Repr

/-- The size of the scanline buffer, the compressor's input, for a width and a height in pixels (R187). -/
def scanlineBytes (width height : Nat) : Nat := height * (width * 3 + 1)

/-- The compressor's output bound for a source length (R187). -/
def compressBound (n : Nat) : Nat := n + n / 1000 + 12

/-- The 8 signature bytes, which the host writes itself (R181). -/
def pngSignature : List Byte := [137#8, 80#8, 78#8, 71#8, 13#8, 10#8, 26#8, 10#8]

/-- `"IHDR"` (R182). -/
def tagIHDR : Tag := ⟨0x49#8, 0x48#8, 0x44#8, 0x52#8⟩

/-- `"IDAT"` (R183). -/
def tagIDAT : Tag := ⟨0x49#8, 0x44#8, 0x41#8, 0x54#8⟩

/-- `"IEND"` (R184). -/
def tagIEND : Tag := ⟨0x49#8, 0x45#8, 0x4E#8, 0x44#8⟩

/-- The 13 bytes of the IHDR payload (R182). -/
def ihdrPayload (width height : Word) : List Byte :=
  be32 width ++ be32 height ++ [8#8, 2#8, 0#8, 0#8, 0#8]

/-- The three chunks of a file, in file order, `z` being the compressed payload at its true length (R183, R185). -/
def pngOps (width height : Word) (z : List Byte) : List HostOp :=
  [.buildChunk tagIHDR (ihdrPayload width height), .buildChunk tagIDAT z, .buildChunk tagIEND []]

/-- The host program after reset (R185). -/
def pngProgram (width height : Word) (z : List Byte) : List Instr :=
  .init :: opsProgram (pngOps width height z)

/-- The file the host writes: the signature and the `BYTE` items of `OUT` (R181, R185). -/
def pngFile (out : List OutItem) : List Byte := pngSignature ++ fileBytes out

/-! ### The host's own errors (R186) -/

/-- A width and a height in pixels that the host accepts (R186). `limits` is the test for the "format limits", which the spec does not
state (N18) and leaves as a parameter of a host model (U4): any test at all. That a dimension beyond the 32-bit fields of the IHDR payload
(R182) is refused whatever `limits` says is the model's inference (log entry 18, DEDUCED). -/
def dimensionsValid (limits : Nat → Nat → Bool) (width height : Nat) : Bool :=
  decide (0 < width ∧ width < 2 ^ 32 ∧ 0 < height ∧ height < 2 ^ 32) && limits width height

/-- An operation is open on the block when the first `k` instructions of these operations have been sent and no more: `k` falls inside
one of them (R126, R144). -/
def openAfter : List HostOp → Nat → Bool
  | [], _ => false
  | o :: r, k =>
    if k < (opProgram o).length then decide (0 < k) else openAfter r (k - (opProgram o).length)

/-- What the host has sent in all when an error of its own stops it after `k` instructions: where an operation is open, an ABORT follows
(R186, R160). -/
def stoppedProgram (l : List HostOp) (k : Nat) : List Instr :=
  (opsProgram l).take k ++ (if openAfter l k then [Instr.abort] else [])

/-- What the host sends for an image, the table being valid, and the error of its own that it reports. Dimensions are checked before
anything is sent; `failure` is an error of the compressor or the pixel source with the number of instructions sent before it, if one
occurs (R186; that it can occur after any number is log entry 19). -/
def imageProgram (limits : Nat → Nat → Bool) (width height : Nat) (z : List Byte) (failure : Option (HostError × Nat)) :
    List Instr × Option HostError :=
  if dimensionsValid limits width height then
    let ops := pngOps (BitVec.ofNat 32 width) (BitVec.ofNat 32 height) z
    match failure with
    | none => (opsProgram ops, none)
    | some (e, k) => (stoppedProgram ops k, some e)
  else ([], some .invalidDimensions)

/-- What becomes of an image. -/
inductive ImageResult where
  /-- The file the host writes. -/
  | file (l : List Byte)
  /-- The host's own error: no output file (R186). -/
  | hostError (e : HostError)
  /-- The block recorded a fault: the output of the image is discarded (R180 rows 6 and 7, R207). -/
  | blockFault (e : Err)
  /-- An operation is still open: its output must not be used (R233 (c), R236). -/
  | unfinished
  deriving DecidableEq, Repr

/-- The result of an image whose items the block has consumed between `s` and `t`, `failure` being the host's own error. After an error or
a fault nothing of what `OUT` gained for the image is used (R180 rows 6 and 7, R186, R233 (c)). -/
def imageResult (failure : Option HostError) (s t : State) : ImageResult :=
  match failure with
  | some e => .hostError e
  | none =>
    match t.phase with
    | .idle => .file (pngFile (t.out.drop s.out.length))
    | .fault => .blockFault t.err
    | .init | .span | .payload => .unfinished

end Sys2Proof.Machine
end

