-- ==== Sys2Proof/Machine/Assembler.lean ====
section
/-! DEFINITION. The assembler's lines (R81) with the pseudo-instructions (R82): one instruction a line, operands separated by a comma,
`;` starting a comment. A line is a list of characters. -/

namespace Sys2Proof.Machine

/-- What a line stands for. -/
inductive AsmLine where
  /-- No instruction: an empty line or a comment. -/
  | blank
  /-- One of the six instructions (R81). -/
  | instr (i : Instr)
  /-- `BYTES` (R82). -/
  | bytes (l : List Byte)
  /-- `CHECKSUM` (R82). -/
  | checksum (l : List Byte)
  /-- `BUILDCHUNK` (R82). -/
  | buildChunk (t : Tag) (l : List Byte)
  /-- The directive `.reset`, which is not an item (R81). -/
  | reset
  /-- An observation line `.expect`, which does nothing to the block (R81); its text is not read (log entry 16). -/
  | expect
  deriving DecidableEq, Repr

/-- The expansion of a line into instructions (R82). -/
def asmProgram : AsmLine → List Instr
  | .blank => []
  | .instr i => [i]
  | .bytes l => bytesProgram l
  | .checksum l => checksumProgram l
  | .buildChunk t l => buildChunkProgram t l
  | .reset => []
  | .expect => []

/-- What the host does for a line; `g` is what a `.reset` leaves unspecified (R35, R81). -/
def asmEvents (g : ResetGarbage) : AsmLine → List Event
  | .reset => [.reset g]
  | .blank => []
  | .instr i => [.append (encode i)]
  | .bytes l => (itemsOf (bytesProgram l)).map Event.append
  | .checksum l => (itemsOf (checksumProgram l)).map Event.append
  | .buildChunk t l => (itemsOf (buildChunkProgram t l)).map Event.append
  | .expect => []

/-! ### Reading a line -/

/-- A token of a line. -/
inductive Token where
  | word (l : List Char)
  | text (l : List Char)
  | comma
  deriving DecidableEq, Repr

/-- Where the reader stands: between tokens, in a word, in a quoted string (characters read so far, last first). -/
inductive LexMode where
  | gap
  | inWord (l : List Char)
  | inText (l : List Char)

/-- The double quote, which opens and closes a string. -/
def quoteChar : Char := Char.ofNat 34

/-- A space or a tab. -/
def isGap (c : Char) : Bool := c.toNat == 32 || c.toNat == 9

/-- The tokens of a line, up to its comment; an unclosed string is an error. R81 says only that `;` starts a comment: that a `;` between the
double quotes of a string is a character of the string, that the next double quote always ends the string, so that none can stand in it,
and that an unclosed string is refused, is the model's choice (log entry 20, DESIGN CHOICE). -/
def lex : LexMode → List Char → Option (List Token)
  | .gap, [] => some []
  | .inWord w, [] => some [.word w.reverse]
  | .inText _, [] => none
  | .gap, c :: r =>
    if c = ';' then some []
    else if isGap c then lex .gap r
    else if c = ',' then (lex .gap r).map (Token.comma :: ·)
    else if c = quoteChar then lex (.inText []) r
    else lex (.inWord [c]) r
  | .inWord w, c :: r =>
    if c = ';' then some [.word w.reverse]
    else if isGap c then (lex .gap r).map (Token.word w.reverse :: ·)
    else if c = ',' then (lex .gap r).map (fun l => Token.word w.reverse :: Token.comma :: l)
    else if c = quoteChar then (lex (.inText []) r).map (Token.word w.reverse :: ·)
    else lex (.inWord (c :: w)) r
  | .inText w, c :: r =>
    if c = quoteChar then (lex .gap r).map (Token.text w.reverse :: ·)
    else lex (.inText (c :: w)) r

/-- The value of a digit in the given base, at most 16. -/
def digitValue (base : Nat) (c : Char) : Option Nat :=
  let n := c.toNat
  let d :=
    if 48 ≤ n ∧ n ≤ 57 then n - 48
    else if 65 ≤ n ∧ n ≤ 70 then n - 55
    else if 97 ≤ n ∧ n ≤ 102 then n - 87
    else base
  if d < base then some d else none

/-- The value of a sequence of digits, most significant first, on top of `acc`. -/
def digitsValue (base : Nat) : Nat → List Char → Option Nat
  | acc, [] => some acc
  | acc, c :: r =>
    match digitValue base c with
    | some d => digitsValue base (acc * base + d) r
    | none => none

/-- A number, decimal or `0x` hexadecimal (R81). -/
def numberOf : List Char → Option Nat
  | [] => none
  | '0' :: 'x' :: c :: r => digitsValue 16 0 (c :: r)
  | c :: r => digitsValue 10 0 (c :: r)

/-- A number below `2^w` as a bit string. -/
def numberBits (w : Nat) (l : List Char) : Option (BitVec w) :=
  match numberOf l with
  | some n => if n < 2 ^ w then some (BitVec.ofNat w n) else none
  | none => none

/-- The ASCII code of a character (R81). -/
def asciiByte (c : Char) : Option Byte :=
  if c.toNat < 128 then some (BitVec.ofNat 8 c.toNat) else none

/-- The bytes of a string, one per character (R81, R82). -/
def asciiBytes (l : List Char) : Option (List Byte) := l.mapM asciiByte

/-- A tag: a 4-character string or a 32-bit number (R81). -/
def tagOf : Token → Option Tag
  | .text [a, b, c, d] =>
    match asciiBytes [a, b, c, d] with
    | some [w, x, y, z] => some ⟨w, x, y, z⟩
    | _ => none
  | .text _ => none
  | .word l => (numberBits 32 l).map tagOfWord
  | .comma => none

/-- A byte of a byte sequence: two hexadecimal digits (R7, log entry 16). -/
def hexPair : Token → Option Byte
  | .word [a, b] => (digitsValue 16 0 [a, b]).map (BitVec.ofNat 8)
  | .word _ => none
  | .text _ => none
  | .comma => none

/-- A byte sequence: nothing, one string, or two-digit hexadecimal bytes (R7, R82). -/
def bytesOf : List Token → Option (List Byte)
  | [.text l] => asciiBytes l
  | l => l.mapM hexPair

/-- An operand-less line: nothing may follow the mnemonic. -/
def bare (a : AsmLine) : List Token → Option AsmLine
  | [] => some a
  | _ :: _ => none

/-- A line that starts with the word `w` (R81, R82). -/
def lineOf (w : List Char) (args : List Token) : Option AsmLine :=
  if w = ['I', 'N', 'I', 'T'] then bare (.instr .init) args
  else if w = ['S', 'P', 'A', 'N'] then bare (.instr .span) args
  else if w = ['E', 'N', 'D'] then bare (.instr .endSpan) args
  else if w = ['A', 'B', 'O', 'R', 'T'] then bare (.instr .abort) args
  else if w = ['C', 'H', 'U', 'N', 'K'] then
    match args with
    | [t, .comma, .word n] =>
      match tagOf t, numberBits 64 n with
      | some t, some n => some (.instr (.chunk t n))
      | _, _ => none
    | _ => none
  else if w = ['D', 'A', 'T', 'A'] then
    match args with
    | [.word n] => (numberBits 8 n).map (fun b => .instr (.data b))
    | _ => none
  else if w = ['B', 'Y', 'T', 'E', 'S'] then (bytesOf args).map .bytes
  else if w = ['C', 'H', 'E', 'C', 'K', 'S', 'U', 'M'] then (bytesOf args).map .checksum
  else if w = ['B', 'U', 'I', 'L', 'D', 'C', 'H', 'U', 'N', 'K'] then
    match args with
    | t :: .comma :: l =>
      match tagOf t, bytesOf l with
      | some t, some l => some (.buildChunk t l)
      | _, _ => none
    | _ => none
  else if w = ['.', 'r', 'e', 's', 'e', 't'] then bare .reset args
  else none

/-- A line of tokens. -/
def tokensLine : List Token → Option AsmLine
  | [] => some .blank
  | .word w :: args => lineOf w args
  | .text _ :: _ => none
  | .comma :: _ => none

/-- Reading one line; an observation line is recognised by its first word and not read further (R81). -/
def parseLine (l : List Char) : Option AsmLine :=
  match l.dropWhile isGap with
  | '.' :: 'e' :: 'x' :: 'p' :: 'e' :: 'c' :: 't' :: ' ' :: _ => some .expect
  | _ =>
    match lex .gap l with
    | some ts => tokensLine ts
    | none => none

end Sys2Proof.Machine
end

