-- ==== Sys2Proof/Machine/Instances.lean ====
section
/-! DEFINITION. Several instances (R62, R215): each is a state of its own, an event acts on one of them, and they share nothing. -/

namespace Sys2Proof.Machine

/-- The event `e` at instance `k`; an index that names no instance does nothing. -/
def actAt (l : List State) (k : Nat) (e : Event) : Host.Outcome (List State) Fault Refusal :=
  match l[k]? with
  | none => .next l
  | some s =>
    match act e s with
    | .next t => .next (l.set k t)
    | .fault f => .fault f
    | .refused f => .refused f

end Sys2Proof.Machine
end

