-- ==== Sys2Proof/Safety.lean ====
section
/-! DEFINITION. What claims are stated in: the invariant (R28 with the canonical form of the table), the end of a run (R236), the
STATUS values a reachable state can show. -/

namespace Sys2Proof.Machine

/-- The invariants of R28 (a) to (f), (a) by the type of `PHASE`, with the canonical form of the table and the two facts of
95_test_vectors.md 2.10 about which fault goes with which `TV`. R28 (g) is about two states and is a claim of its own. -/
structure Inv (s : State) : Prop where
  /-- The table is in canonical form (log entry 1). -/
  tableWf : Memory.wf s.table = true
  /-- R28 (b). -/
  faultIff : s.phase = .fault ↔ s.err ≠ .none
  /-- R28 (c). -/
  openValid : s.phase = .span ∨ s.phase = .payload → s.tv = true
  /-- R28 (d), first half. -/
  fillNotValid : s.phase = .init → s.tv = false
  /-- R28 (d), second half. -/
  fillDone : s.phase = .init → ∀ n : Byte, n < s.idx → s.tableRead n = tableRef n
  /-- R28 (e). -/
  validTable : s.tv = true → ∀ n : Byte, s.tableRead n = tableRef n
  /-- R28 (f). -/
  owes : s.phase = .payload → s.cnt ≠ 0#32
  /-- `PayloadTooLarge` needs `TV = 1` (R201). -/
  tooLargeValid : s.err = .payloadTooLarge → s.tv = true
  /-- `TableNotReady` needs `TV = 0` (R202). -/
  notReadyInvalid : s.err = .tableNotReady → s.tv = false

/-- The run has ended (R236). -/
def RunEnded (s : State) : Prop := s.inp = [] ∧ s.phase ≠ .init

/-- The run ended well (R236). -/
def RunEndedWell (s : State) : Prop := RunEnded s ∧ s.phase = .idle ∧ s.err = .none

/-- The values of `STATUS` that a reachable state can show (95_test_vectors.md 2.10). -/
def reachableStatus : List Word :=
  [0x00000000#32, 0x00000001#32, 0x00000002#32, 0x00000005#32, 0x00000007#32, 0x00000019#32,
   0x00000028#32, 0x00000038#32, 0x00000039#32, 0x00000048#32, 0x00000049#32]

/-- The fault that an item reports, by the priority of R206: it does not decode (`none`); it is not allowed in the phase; the table is
not valid; the length does not fit. `Err.none` where it reports none. For the phases in which an item acts (R163, R164). -/
def reportedFault (ph : Phase) (tv : Bool) (i : Option Instr) : Err :=
  match i, ph with
  | none, _ => .illegalCommand
  | some (.data _), .idle => .sequenceError
  | some .endSpan, .idle => .sequenceError
  | some .span, .idle => if tv then .none else .tableNotReady
  | some (.chunk _ len), .idle =>
    if tv then (if 0xFFFFFFFF < len.toNat then .payloadTooLarge else .none) else .tableNotReady
  | some .init, .span | some .span, .span | some (.chunk _ _), .span => .sequenceError
  | some .init, .payload | some .span, .payload | some .endSpan, .payload | some (.chunk _ _), .payload => .sequenceError
  | some _, _ => .none

/-- A reset that leaves some table in canonical form; any other event. Every table contents has a canonical form, so no reset of the
hardware is shut out (log entry 1). -/
def eventCanonical : Event → Bool
  | .reset g => Memory.wf g.table
  | .append _ => true
  | .block => true

/-- The event is a reset. -/
def isReset : Event → Bool
  | .reset _ => true
  | .append _ => false
  | .block => false

/-- All the host can see (R29, R30, R35): `STATUS`, `OUT`, and how much of `IN` has been consumed. -/
def SameToHost (s t : State) : Prop := s.status = t.status ∧ s.out = t.out ∧ s.inp = t.inp

/-- The number that a byte sequence encodes, most significant byte first (R52). -/
def bigEndian (l : List Byte) : Nat := l.foldl (fun a b => a * 256 + b.toNat) 0

/-- `k` steps of the block on its own. -/
def runSteps (k : Nat) (s : State) : Host.Outcome State Fault Refusal := Host.Core.run Sys2Proof.core k s

end Sys2Proof.Machine
end

