-- ==== Sys2Proof/Certificates/Slice0/Obligations.lean ====
section
/-! DEFINITION. The statements for the provers: what the numbered rules of the spec say an instruction or the machine does. -/

open Sys2Proof Sys2Proof.Machine

/-! ### Encoding (R71 to R83) -/

/-- R83: the twelve worked encodings, nine legal and three illegal. -/
def Obligations.WorkedEncodings : Prop :=
  decode 0x101000000000000000000000000000000#129 = some .init ∧
  decode 0x102000000000000000000000000000000#129 = some .span ∧
  decode 0x103000000000000000000000000000000#129 = some .endSpan ∧
  decode 0x10400000049484452000000000000000D#129 = some (.chunk ⟨0x49#8, 0x48#8, 0x44#8, 0x52#8⟩ 13#64) ∧
  decode 0x104000000494441540000000000000010#129 = some (.chunk ⟨0x49#8, 0x44#8, 0x41#8, 0x54#8⟩ 16#64) ∧
  decode 0x10400000049454E440000000000000000#129 = some (.chunk ⟨0x49#8, 0x45#8, 0x4E#8, 0x44#8⟩ 0#64) ∧
  decode 0x104000000494441540000000100000000#129 = some (.chunk ⟨0x49#8, 0x44#8, 0x41#8, 0x54#8⟩ 0x100000000#64) ∧
  decode 0x105000000000000000000000000000000#129 = some .abort ∧
  decode 0x000000000000000000000000000000049#129 = some (.data 0x49#8) ∧
  decode 0x100000000000000000000000000000000#129 = none ∧
  decode 0x101000000000000000000000000000001#129 = none ∧
  decode 0x10400000149454E440000000000000000#129 = none

/-- Decoding an encoded instruction gives it back, for every instruction and every operand. -/
def Obligations.DecodeOfEncode : Prop := ∀ i : Instr, decode (encode i) = some i

/-- Each item has one meaning: an item that decodes is the encoding of what it decodes to. -/
def Obligations.DecodedItemIsItsEncoding : Prop := ∀ (p : Item) (i : Instr), decode p = some i → encode i = p

/-- R76: the legal command words, listed; `RSV` must be zero in every one. -/
def Obligations.LegalCommandWordsListed : Prop :=
  ∀ p : Item, p.kind = true →
    ((decode p ≠ none ↔
        p.command = (0x01#128 <<< 120) ∨ p.command = (0x02#128 <<< 120) ∨ p.command = (0x03#128 <<< 120) ∨
        p.command = (0x05#128 <<< 120) ∨
        ∃ (typ : BitVec 32) (len : BitVec 64),
          p.command = ((0x04#128 <<< 120) ||| (typ.setWidth 128 <<< 64) ||| len.setWidth 128)) ∧
      (p.command.rsv ≠ 0#24 → decode p = none) ∧
      (p.command.op = 0x01#8 ∨ p.command.op = 0x02#8 ∨ p.command.op = 0x03#8 ∨ p.command.op = 0x05#8 →
        p.command.operands ≠ 0#96 → decode p = none))

/-- The decoder accepts exactly the items that match a row of the opcode table, by the mnemonic of that row and of no other. -/
def Obligations.DecoderAgreesWithOpcodeTable : Prop :=
  ∀ (p : Item) (r : OpcodeRow), r ∈ opcodeRows →
    (r.fits p = true ↔ ∃ i, decode p = some i ∧ i.mnemonic = r.mnemonic)

/-- R79: the packed form of an output item. -/
def Obligations.PackedOutputItems : Prop :=
  (∀ b : Byte, (packOut (.byte b)).getLsbD 32 = false ∧ (packOut (.byte b)).extractLsb' 0 8 = b ∧
      (packOut (.byte b)).extractLsb' 8 24 = 0#24) ∧
  (∀ w : Word, (packOut (.word w)).getLsbD 32 = true ∧ (packOut (.word w)).extractLsb' 0 32 = w) ∧
  ∀ x y : OutItem, packOut x = packOut y → x = y

/-- R82: the expansions of the pseudo-instructions, and what the host appends for a line. For a payload of 2^64 bytes or more, whose length
fits no `LEN` field, the length declared is the model's choice (log entry 21, DESIGN CHOICE). -/
def Obligations.PseudoInstructionExpansions : Prop :=
  (∀ l, asmProgram (.bytes l) = l.map Instr.data) ∧
  (∀ l, asmProgram (.checksum l) = [Instr.span] ++ l.map Instr.data ++ [Instr.endSpan]) ∧
  (∀ t l, asmProgram (.buildChunk t l) = [Instr.chunk t (BitVec.ofNat 64 l.length)] ++ l.map Instr.data) ∧
  ∀ g a, a ≠ .reset → asmEvents g a = (asmProgram a).map fun i => Event.append (encode i)

/-! ### Reset and the host (R30, R35, R180, R230) -/

/-- R230: a reset is enabled in every state and leaves the reset state; what R35 leaves unspecified is whatever `g` says. -/
def Obligations.ResetLeavesTheResetState : Prop :=
  ∀ (s : State) (g : ResetGarbage), ∃ t, act (.reset g) s = .next t ∧
    t.tv = false ∧ t.phase = .idle ∧ t.err = .none ∧ t.status = 0#32 ∧ t.inp = [] ∧ t.out = [] ∧
    t.table = g.table ∧ t.crc = g.crc ∧ t.cnt = g.cnt ∧ t.idx = g.idx

/-- `State.reset` is one of the states a reset leaves. The values of `TABLE`, `CRC`, `CNT` and `IDX` in it are the model's own (log
entries 2 and 3, DESIGN CHOICE). -/
def Obligations.ModelResetIsAReset : Prop :=
  ∀ s : State, act (.reset ⟨[], 0#32, 0#32, 0#8⟩) s = .next State.reset

/-- R35: no rule reads an unspecified field before a step has written it, so nothing the host can see depends on what a reset left in
them: after the same events the two runs show the same `STATUS`, `OUT` and remaining `IN`. That a `.block` event answers a next state where
the block only waits is the model's choice (log entry 5, DESIGN CHOICE). -/
def Obligations.ResetGarbageIsNeverSeen : Prop :=
  ∀ (g g' : ResetGarbage) (es : List Event), Memory.wf g.table = true → Memory.wf g'.table = true →
    es.all eventCanonical = true →
    ∃ t t', actAll es (State.resetWith g) = .next t ∧ actAll es (State.resetWith g') = .next t' ∧ SameToHost t t'

/-- R30, R180: the host may append any item in any state; the item goes to the tail of `IN` and nothing else changes. -/
def Obligations.AppendOnlyExtendsInput : Prop :=
  ∀ (s : State) (p : Item), act (.append p) s = .next { s with inp := s.inp ++ [p] }

/-- R215: an event at one instance is that event on its state, and no other instance changes. -/
def Obligations.InstancesAreIndependent : Prop :=
  ∀ (l l' : List State) (k : Nat) (e : Event), actAt l k e = .next l' →
    l'.length = l.length ∧ (∀ j, j ≠ k → l'[j]? = l[j]?) ∧
    ∀ s, l[k]? = some s → ∃ t, act e s = .next t ∧ l'[k]? = some t

/-! ### The steps (R105, R106, R161, R163, R203, R235) -/

/-- A step runs the decoded instruction: outside phase `INIT`, when the head of `IN` decodes to `i`, the step is `exec i` on the state
with that item removed. -/
def Obligations.StepRunsTheDecodedInstruction : Prop :=
  ∀ (s : State) (p : Item) (rest : List Item) (i : Instr),
    s.phase ≠ .init → s.inp = p :: rest → decode p = some i → step s = exec i { s with inp := rest }

/-- R203: an illegal item in `IDLE`, `SPAN` or `PAYLOAD` takes the fault `IllegalCommand`, code 3; the item is consumed and nothing else
changes. -/
def Obligations.IllegalItemFaults : Prop :=
  errCode .illegalCommand = 3#3 ∧
  ∀ (s : State) (p : Item) (rest : List Item),
    s.phase = .idle ∨ s.phase = .span ∨ s.phase = .payload → s.inp = p :: rest → decode p = none →
    step s = .next { s with inp := rest, err := .illegalCommand, phase := .fault }

/-- R163: in phase `FAULT` every item but a legal `ABORT`, an illegal one too, is removed and nothing else changes; `ABORT` leaves the
phase; the block's own steps leave it no other way, and the host's only by reset. -/
def Obligations.FaultPhaseDiscards : Prop :=
  ∀ s : State, s.phase = .fault →
    (∀ p rest, s.inp = p :: rest → decode p ≠ some .abort → step s = .next { s with inp := rest }) ∧
    (∀ p rest, s.inp = p :: rest → decode p = some .abort →
      step s = .next { s with inp := rest, err := .none, phase := .idle }) ∧
    (∀ t, step s = .next t → t.phase ≠ .fault → ∃ p rest, s.inp = p :: rest ∧ decode p = some .abort) ∧
    ∀ e t, act e s = .next t → t.phase ≠ .fault → e = .block ∨ ∃ g, e = .reset g

/-- A block with nothing to consume waits and keeps all its state; the step that stands for waiting is the model's (log entry 5). -/
def Obligations.WaitingKeepsTheState : Prop :=
  ∀ s : State, s.phase ≠ .init → s.inp = [] → step s = .next s

/-- R161 (b), (c): in phase `INIT` no item is consumed; in every other phase the head of `IN` is, and no more. -/
def Obligations.EachStepConsumesTheHead : Prop :=
  ∀ s t : State, step s = .next t →
    (s.phase = .init → t.inp = s.inp) ∧ (s.phase ≠ .init → t.inp = s.inp.tail)

/-- Every step of the block answers a next state, in every state (R161, R235). For a waiting block (phase not `INIT`, `IN` empty) R161 gives
no enabled step: that the model's step answers a next state there too is its own choice (log entry 5, DESIGN CHOICE). -/
def Obligations.EveryStepCompletes : Prop := ∀ s : State, ∃ t, step s = .next t

/-- A meaning stops in phase `INIT`, where no item is consumed (the model's stop, log entry 6), and nowhere else. -/
def Obligations.MeaningsStopOnlyDuringFill : Prop :=
  ∀ (i : Instr) (s : State),
    (s.phase = .init → exec i s = .fault .consumeDuringFill) ∧ (s.phase ≠ .init → ∃ t, exec i s = .next t)

/-- The fill step writes one entry, at `IDX`, with the reducer's value, reads `IDX` only, emits nothing, consumes nothing, and either
moves on to the next index, which does not wrap, or at index 255 makes the table valid. -/
def Obligations.FillStepWritesOneEntry : Prop :=
  ∀ s : State, Memory.wf s.table = true → s.phase = .init →
    ∃ t, step s = .next t ∧
      (∀ n : Byte, t.tableRead n = if n = s.idx then reduce8 (s.idx.setWidth 32) else s.tableRead n) ∧
      t.inp = s.inp ∧ t.out = s.out ∧ t.crc = s.crc ∧ t.cnt = s.cnt ∧ t.err = s.err ∧
      (s.idx = 255#8 → t.tv = true ∧ t.phase = .idle ∧ t.idx = s.idx) ∧
      (s.idx ≠ 255#8 → t.tv = s.tv ∧ t.phase = .init ∧ t.idx.toNat = s.idx.toNat + 1)

/-- R106 with the step count of R105: from the state that an accepted `INIT` leaves, phase `INIT` lasts exactly 256 steps; then the whole
table holds `TABLE_REF`, `TV` is 1, the phase is `IDLE`, and nothing else has changed, whatever the table held before. -/
def Obligations.FillEndsAfter256Steps : Prop :=
  ∀ s : State, Memory.wf s.table = true → s.phase = .init → s.idx = 0#8 →
    (∀ k < 256, ∃ u, runSteps k s = .next u ∧ u.phase = .init) ∧
    ∃ t, runSteps 256 s = .next t ∧ (∀ n : Byte, t.tableRead n = reduce8 (n.setWidth 32)) ∧
      t.tv = true ∧ t.phase = .idle ∧ t.crc = s.crc ∧ t.cnt = s.cnt ∧ t.err = s.err ∧ t.out = s.out ∧ t.inp = s.inp

/-- R108: the 257 steps of an initialisation leave the state of one step that copies the reference table; `IDX` ends at 255 (R105). -/
def Obligations.FillEqualsOneStepFill : Prop :=
  ∀ (s : State) (p : Item) (rest : List Item), Memory.wf s.table = true → s.phase = .idle → s.tv = false →
    s.inp = p :: rest → decode p = some .init →
    runSteps 257 s = .next { s with inp := rest, table := referenceTable, tv := true, idx := 255#8 }

/-! ### The instructions, in every phase -/

/-- INIT in every phase in which an item is consumed; R107 is the second clause. -/
def Obligations.InitMeaning : Prop :=
  decode (1#129 <<< 128 ||| 0x01#129 <<< 120) = some .init ∧
  ∀ s : State,
    (s.phase = .idle → s.tv = false → exec .init s = .next { s with idx := 0#8, phase := .init }) ∧
    (s.phase = .idle → s.tv = true → exec .init s = .next s) ∧
    (s.phase = .span ∨ s.phase = .payload →
      exec .init s = .next { s with err := .sequenceError, phase := .fault }) ∧
    (s.phase = .fault → exec .init s = .next s)

/-- R123: SPAN in every phase in which an item is consumed. -/
def Obligations.SpanMeaning : Prop :=
  decode (1#129 <<< 128 ||| 0x02#129 <<< 120) = some .span ∧
  ∀ s : State,
    (s.phase = .idle → s.tv = true → exec .span s = .next { s with crc := 0xFFFFFFFF#32, phase := .span }) ∧
    (s.phase = .idle → s.tv = false → exec .span s = .next { s with err := .tableNotReady, phase := .fault }) ∧
    (s.phase = .span ∨ s.phase = .payload →
      exec .span s = .next { s with err := .sequenceError, phase := .fault }) ∧
    (s.phase = .fault → exec .span s = .next s)

/-- R124 with the payload step of R143: DATA in every phase in which an item is consumed. -/
def Obligations.DataMeaning : Prop :=
  ∀ b : Byte, decode (b.setWidth 129) = some (.data b) ∧
  ∀ s : State,
    (s.phase = .span → exec (.data b) s = .next { s with crc := s.crcUpdate s.crc b }) ∧
    (s.phase = .payload → 1 < s.cnt.toNat →
      ∃ t, exec (.data b) s =
          .next { s with crc := s.crcUpdate s.crc b, cnt := t, out := s.out ++ [.byte b] } ∧ t.toNat = s.cnt.toNat - 1) ∧
    (s.phase = .payload → s.cnt = 1#32 →
      exec (.data b) s =
        .next { s with
          crc := s.crcUpdate s.crc b, cnt := 0#32, phase := .idle,
          out := s.out ++ [.byte b] ++ byteItems (be32 (~~~(s.crcUpdate s.crc b))) }) ∧
    (s.phase = .idle → exec (.data b) s = .next { s with err := .sequenceError, phase := .fault }) ∧
    (s.phase = .fault → exec (.data b) s = .next s)

/-- R125: END in every phase in which an item is consumed. -/
def Obligations.EndMeaning : Prop :=
  decode (1#129 <<< 128 ||| 0x03#129 <<< 120) = some .endSpan ∧
  ∀ s : State,
    (s.phase = .span → exec .endSpan s = .next { s with out := s.out ++ [.word (~~~s.crc)], phase := .idle }) ∧
    (s.phase = .idle ∨ s.phase = .payload →
      exec .endSpan s = .next { s with err := .sequenceError, phase := .fault }) ∧
    (s.phase = .fault → exec .endSpan s = .next s)

/-- R142: CHUNK in every phase in which an item is consumed, with every tag and every length (R149, R150). -/
def Obligations.ChunkMeaning : Prop :=
  ∀ (t : Tag) (len : Length),
    decode (1#129 <<< 128 ||| 0x04#129 <<< 120 ||| t.t0.setWidth 129 <<< 88 ||| t.t1.setWidth 129 <<< 80 |||
      t.t2.setWidth 129 <<< 72 ||| t.t3.setWidth 129 <<< 64 ||| len.setWidth 129) = some (.chunk t len) ∧
    ∀ s : State,
      let n : Word := len.setWidth 32
      let header := byteItems (be32 n) ++ [.byte t.t0, .byte t.t1, .byte t.t2, .byte t.t3]
      let r1 := s.crcUpdate (s.crcUpdate (s.crcUpdate (s.crcUpdate 0xFFFFFFFF#32 t.t0) t.t1) t.t2) t.t3
      (s.phase = .idle → s.tv = false →
        exec (.chunk t len) s = .next { s with err := .tableNotReady, phase := .fault }) ∧
      (s.phase = .idle → s.tv = true → 0xFFFFFFFF < len.toNat →
        exec (.chunk t len) s = .next { s with err := .payloadTooLarge, phase := .fault }) ∧
      (s.phase = .idle → s.tv = true → len.toNat = 0 →
        exec (.chunk t len) s =
          .next { s with out := s.out ++ header ++ byteItems (be32 (~~~r1)), crc := r1, cnt := n }) ∧
      (s.phase = .idle → s.tv = true → 0 < len.toNat → len.toNat ≤ 0xFFFFFFFF →
        exec (.chunk t len) s =
          .next { s with out := s.out ++ header, crc := r1, cnt := n, phase := .payload }) ∧
      (s.phase = .span ∨ s.phase = .payload →
        exec (.chunk t len) s = .next { s with err := .sequenceError, phase := .fault }) ∧
      (s.phase = .fault → exec (.chunk t len) s = .next s)

/-- R160: ABORT in every phase in which an item is consumed, and that an `ABORT` word with a non-zero reserved field is illegal. -/
def Obligations.AbortMeaning : Prop :=
  decode (1#129 <<< 128 ||| 0x05#129 <<< 120) = some .abort ∧
  (∀ p : Item, p.kind = true → p.command.op = 0x05#8 → p.command.rsv ≠ 0#24 ∨ p.command.operands ≠ 0#96 →
    decode p = none) ∧
  ∀ s : State, s.phase ≠ .init → exec .abort s = .next { s with err := .none, phase := .idle }

/-! ### Faults (R200 to R209) -/

/-- R204: the legal instructions that raise `SequenceError`, code 4, by phase, and that no others do. -/
def Obligations.SequenceErrorsExactly : Prop :=
  errCode .sequenceError = 4#3 ∧
  ∀ (i : Instr) (s : State), s.err ≠ .sequenceError →
    (exec i s = .next { s with err := .sequenceError, phase := .fault } ↔
      (s.phase = .idle ∧ ((∃ b, i = .data b) ∨ i = .endSpan)) ∨
      (s.phase = .span ∧ (i = .init ∨ i = .span ∨ ∃ t len, i = .chunk t len)) ∨
      (s.phase = .payload ∧ (i = .init ∨ i = .span ∨ i = .endSpan ∨ ∃ t len, i = .chunk t len)))

/-- R202: `TableNotReady`, code 2, is raised by SPAN and CHUNK in phase `IDLE` with `TV = 0`, and by nothing else. -/
def Obligations.TableNotReadyExactly : Prop :=
  errCode .tableNotReady = 2#3 ∧
  ∀ (i : Instr) (s : State), s.err ≠ .tableNotReady →
    (exec i s = .next { s with err := .tableNotReady, phase := .fault } ↔
      s.phase = .idle ∧ s.tv = false ∧ (i = .span ∨ ∃ t len, i = .chunk t len))

/-- R148, R201: `PayloadTooLarge`, code 1, is raised by CHUNK in phase `IDLE` with `TV = 1` and `LEN[63:32] != 0`, that is
`LEN > 0xFFFFFFFF`, and by nothing else. -/
def Obligations.PayloadTooLargeExactly : Prop :=
  errCode .payloadTooLarge = 1#3 ∧
  (∀ (i : Instr) (s : State), s.err ≠ .payloadTooLarge →
    (exec i s = .next { s with err := .payloadTooLarge, phase := .fault } ↔
      s.phase = .idle ∧ s.tv = true ∧ ∃ t len, i = .chunk t len ∧ 0xFFFFFFFF < len.toNat)) ∧
  ∀ len : Length, 0xFFFFFFFF < len.toNat ↔ len.extractLsb' 32 32 ≠ 0#32

/-- R205, R206, R207: one item reports the first fault in the order of R206; a faulting item is consumed, `ERR` and `PHASE` are written
and nothing else is; an item that reports none does not enter phase `FAULT`. -/
def Obligations.FaultPriorityAndPrecision : Prop :=
  ∀ (s t : State) (p : Item) (rest : List Item),
    s.phase = .idle ∨ s.phase = .span ∨ s.phase = .payload → s.inp = p :: rest → step s = .next t →
    if reportedFault s.phase s.tv (decode p) = .none then t.phase ≠ .fault
    else t = { s with inp := rest, err := reportedFault s.phase s.tv (decode p), phase := .fault }

/-- R209: as long as no legal `ABORT` is consumed and no reset happens, `ERR` keeps the code of the first fault, and nothing the host
sends changes anything but `IN`. -/
def Obligations.FirstFaultIsKept : Prop :=
  ∀ (es : List Event) (s t : State), s.phase = .fault → (∀ p ∈ s.inp, decode p ≠ some .abort) →
    (∀ e ∈ es, isReset e = false ∧ ∀ p, e = .append p → decode p ≠ some .abort) → actAll es s = .next t →
    t = { s with inp := t.inp }

/-! ### Frames and streams -/

/-- No instruction writes the table, `TV` or `IN`; every table entry reads as before. -/
def Obligations.InstructionsLeaveTableAndInput : Prop :=
  ∀ (i : Instr) (s t : State), exec i s = .next t →
    t.table = s.table ∧ t.tv = s.tv ∧ t.inp = s.inp ∧ ∀ n : Byte, t.tableRead n = s.tableRead n

/-- What each instruction leaves unchanged of the other fields, in every phase. -/
def Obligations.FrameOfEachInstruction : Prop :=
  ∀ s t : State,
    (exec .init s = .next t → t.crc = s.crc ∧ t.cnt = s.cnt ∧ t.out = s.out) ∧
    (exec .span s = .next t → t.cnt = s.cnt ∧ t.idx = s.idx ∧ t.out = s.out) ∧
    (exec .endSpan s = .next t → t.crc = s.crc ∧ t.cnt = s.cnt ∧ t.idx = s.idx) ∧
    (exec .abort s = .next t → t.crc = s.crc ∧ t.cnt = s.cnt ∧ t.idx = s.idx ∧ t.out = s.out) ∧
    (∀ tag len, exec (.chunk tag len) s = .next t → t.idx = s.idx) ∧
    (∀ b, exec (.data b) s = .next t → t.idx = s.idx ∧ (s.phase ≠ .payload → t.cnt = s.cnt ∧ t.out = s.out))

/-- A step only appends to `OUT` (R30, R79); a `WORD` is appended only in phase `SPAN`, and there alone (R125, R162); at most the 12 bytes of
an empty chunk (R142) or 5 bytes of a payload step (R143) are appended at once. -/
def Obligations.OutputOnlyGrows : Prop :=
  ∀ s t : State, step s = .next t → ∃ l, t.out = s.out ++ l ∧
    (s.phase = .span → l = [] ∨ ∃ w, l = [.word w]) ∧
    (s.phase ≠ .span → ∃ bs : List Byte, l = bs.map OutItem.byte ∧ bs.length ≤ 12)

/-- The phase changes that exist (R162): which step can enter and leave each phase. -/
def Obligations.PhaseTransitions : Prop :=
  ∀ s t : State, step s = .next t →
    (t.phase = .init → s.phase = .init ∨ (s.phase = .idle ∧ s.tv = false)) ∧
    (t.phase = .span → s.phase = .span ∨ (s.phase = .idle ∧ s.tv = true)) ∧
    (t.phase = .payload → s.phase = .payload ∨ (s.phase = .idle ∧ s.tv = true)) ∧
    (s.phase = .init → t.phase = .init ∨ t.phase = .idle) ∧
    (s.phase = .fault → t.phase = .fault ∨ t.phase = .idle) ∧
    (t.tv ≠ s.tv → s.phase = .init ∧ s.idx = 255#8 ∧ t.tv = true ∧ t.phase = .idle)

/-! ### STATUS (R29) -/

/-- R29: the fields of `STATUS`, bit by bit, and their reset values. -/
def Obligations.StatusLayout : Prop :=
  (∀ s : State,
    s.status.getLsbD 0 = s.tv ∧ s.status.extractLsb' 7 25 = 0#25 ∧
    s.status.extractLsb' 1 3 =
      (match s.phase with | .idle => 0#3 | .init => 1#3 | .span => 2#3 | .payload => 3#3 | .fault => 4#3) ∧
    s.status.extractLsb' 4 3 =
      (match s.err with
        | .none => 0#3 | .payloadTooLarge => 1#3 | .tableNotReady => 2#3 | .illegalCommand => 3#3 | .sequenceError => 4#3)) ∧
  ∀ g : ResetGarbage, (State.resetWith g).status = 0#32

/-- `STATUS` shows one of the eleven values of 95_test_vectors.md 2.10 in every state that meets the invariant. -/
def Obligations.StatusValuesReachable : Prop := ∀ s : State, Inv s → s.status ∈ reachableStatus

/-! ### Invariants (R28) -/

/-- The invariant holds after every reset, the model's own among them. -/
def Obligations.InvariantAtReset : Prop :=
  Inv State.reset ∧ ∀ g : ResetGarbage, Memory.wf g.table = true → Inv (State.resetWith g)

/-- Every step of the block keeps the invariant of R28, from every state that meets it. -/
def Obligations.StepKeepsInvariant : Prop := ∀ s t : State, Inv s → step s = .next t → Inv t

/-- Every sequence of events, the host's and the block's, keeps the invariant. -/
def Obligations.EventsKeepInvariant : Prop :=
  ∀ (es : List Event) (s t : State), Inv s → es.all eventCanonical = true → actAll es s = .next t → Inv t

/-- R28 (g), R60: once `TV` is 1 it stays 1 and the table is not written, until the next reset. -/
def Obligations.ValidTableIsImmutable : Prop :=
  ∀ (es : List Event) (s t : State), Inv s → s.tv = true → es.all (fun e => !isReset e) = true →
    actAll es s = .next t → t.tv = true ∧ t.table = s.table

/-! ### The reducer and the lookup step (R100 to R122) -/

/-- R110 (a) to (f): the checks on the table. -/
def Obligations.ReferenceTableChecks : Prop :=
  tableRef 0x00#8 = 0#32 ∧ tableRef 0x80#8 = 0xEDB88320#32 ∧
  ((List.range 9).map fun k => Nat.repeat reduce1 k 1#32) =
    [0x00000001#32, 0xEDB88320#32, 0x76DC4190#32, 0x3B6E20C8#32, 0x1DB71064#32, 0x0EDB8832#32, 0x076DC419#32,
     0xEE0E612C#32, 0x77073096#32] ∧
  tableRef 0x01#8 = 0x77073096#32 ∧
  (∀ a b : Byte, tableRef a = tableRef b → a = b) ∧
  ((List.range 256).foldl (fun x k => x ^^^ tableRef (BitVec.ofNat 8 k)) 0#32) = 0#32 ∧
  (∀ a b : Word, reduce8 (a ^^^ b) = reduce8 a ^^^ reduce8 b) ∧
  (∀ a b : Byte, tableRef (a ^^^ b) = tableRef a ^^^ tableRef b) ∧
  crc32 [0x49#8, 0x45#8, 0x4E#8, 0x44#8] = 0xAE426082#32 ∧ crc32 [] = 0x00000000#32

/-- The lookup step: the table entry at `(r ^ b) & 0xFF`, which is `r[7:0] ^ b`, folded with the register shifted right by 8; the top
byte of the result is the entry's. -/
def Obligations.LookupStep : Prop :=
  ∀ (s : State) (r : Word) (b : Byte),
    ∃ i : Byte, i = r.extractLsb' 0 8 ^^^ b ∧ i.setWidth 32 = (r ^^^ b.setWidth 32) &&& 0xFF#32 ∧
      s.crcUpdate r b = s.tableRead i ^^^ (r >>> 8) ∧
      (s.crcUpdate r b).extractLsb' 24 8 = (s.tableRead i).extractLsb' 24 8

/-- R122: over the reference table the lookup step equals the reducer, so a checksum may be computed without the table. -/
def Obligations.LookupStepEqualsReducer : Prop :=
  (∀ (s : State) (r : Word) (b : Byte), (∀ n : Byte, s.tableRead n = tableRef n) →
    s.crcUpdate r b = reduce8 (r ^^^ b.setWidth 32)) ∧
  ∀ l : List Byte, crc32 l = ~~~(l.foldl (fun r b => reduce8 (r ^^^ b.setWidth 32)) 0xFFFFFFFF#32)

/-- R127: the values the document fixes, with the register after each byte of "IEND". -/
def Obligations.GoldenChecksums : Prop :=
  crc32 [] = 0x00000000#32 ∧ crc32 [0x49#8, 0x45#8, 0x4E#8, 0x44#8] = 0xAE426082#32 ∧
  crcUpdateRef 0xFFFFFFFF#32 0x49#8 = 0x22FDE946#32 ∧ crcUpdateRef 0x22FDE946#32 0x45#8 = 0x992BAC53#32 ∧
  crcUpdateRef 0x992BAC53#32 0x4E#8 = 0x639F4775#32 ∧ crcUpdateRef 0x639F4775#32 0x44#8 = 0x51BD9F7D#32

/-! ### The serializer and the layout (R140 to R146, R182 to R185) -/

/-- R141: `be32` gives four bytes, most significant first, and they are emitted in that order. -/
def Obligations.SerializerIsBigEndian : Prop :=
  (∀ v : Word, be32 v = [v.extractLsb' 24 8, v.extractLsb' 16 8, v.extractLsb' 8 8, v.extractLsb' 0 8] ∧
    bigEndian (be32 v) = v.toNat) ∧
  (∀ (s : State) (v : Word), s.emit (byteItems (be32 v)) =
    { s with out := s.out ++ [.byte (v.extractLsb' 24 8), .byte (v.extractLsb' 16 8), .byte (v.extractLsb' 8 8),
        .byte (v.extractLsb' 0 8)] }) ∧
  be32 13#32 = [0x00#8, 0x00#8, 0x00#8, 0x0D#8] ∧ be32 0xAE426082#32 = [0xAE#8, 0x42#8, 0x60#8, 0x82#8] ∧
  be32 0#32 = [0x00#8, 0x00#8, 0x00#8, 0x00#8] ∧ be32 0xFFFFFFFF#32 = [0xFF#8, 0xFF#8, 0xFF#8, 0xFF#8]

/-- The layout of a chunk: a length field that encodes the payload's length, the tag, the payload, and the CRC of tag and payload, 12
bytes more than the payload. -/
def Obligations.ChunkLayoutAndSize : Prop :=
  ∀ (t : Tag) (p : List Byte), p.length ≤ 0xFFFFFFFF →
    (chunkBytes t p).length = p.length + 12 ∧
    bigEndian ((chunkBytes t p).take 4) = p.length ∧
    ((chunkBytes t p).drop 4).take 4 = [t.t0, t.t1, t.t2, t.t3] ∧
    ((chunkBytes t p).drop 8).take p.length = p ∧
    bigEndian ((chunkBytes t p).drop (p.length + 8)) = (crc32 ([t.t0, t.t1, t.t2, t.t3] ++ p)).toNat

/-- The file of R185: the signature first, three chunks in order, and the document's size formula. -/
def Obligations.PngFileShape : Prop :=
  ∀ (w h : Word) (z : List Byte), z.length ≤ 0xFFFFFFFF →
    let file := pngFile (opsOutput (pngOps w h z))
    file.take 8 = [0x89#8, 0x50#8, 0x4E#8, 0x47#8, 0x0D#8, 0x0A#8, 0x1A#8, 0x0A#8] ∧
    file.drop 8 =
      chunkBytes ⟨0x49#8, 0x48#8, 0x44#8, 0x52#8⟩ (be32 w ++ be32 h ++ [8#8, 2#8, 0#8, 0#8, 0#8]) ++
      chunkBytes ⟨0x49#8, 0x44#8, 0x41#8, 0x54#8⟩ z ++
      [0x00#8, 0x00#8, 0x00#8, 0x00#8, 0x49#8, 0x45#8, 0x4E#8, 0x44#8, 0xAE#8, 0x42#8, 0x60#8, 0x82#8] ∧
    file.length = 8 + 25 + (12 + z.length) + 12

/-! ### The two contracts (R126, R144, R236) -/

/-- R126: from a state with `PHASE = IDLE` and `TV = 1`, the items of `CHECKSUM s` raise no fault at any step, append exactly
`WORD(crc32(s))`, and end in phase `IDLE` with the table unchanged and `CRC = ~crc32(s)`, for every byte sequence. -/
def Obligations.ChecksumContract : Prop :=
  ∀ (s : State) (l : List Byte) (rest : List Item), Inv s → s.phase = .idle → s.tv = true →
    s.inp = itemsOf (checksumProgram l) ++ rest →
    (∀ k ≤ l.length + 2, ∃ u, runSteps k s = .next u ∧ u.phase ≠ .fault) ∧
    runSteps (l.length + 2) s =
      .next { s with inp := rest, out := s.out ++ [.word (crc32 l)], crc := ~~~(crc32 l) } ∧
    s.err = .none

/-- R144: from a state with `PHASE = IDLE` and `TV = 1`, the items of `BUILDCHUNK t, p` raise no fault at any step, append exactly the
bytes of `chunk(t, p)`, and end in phase `IDLE` with `CNT = 0`, the table unchanged and `CRC = ~crc32(t || p)`, for every tag and every
payload whose length fits. -/
def Obligations.ChunkContract : Prop :=
  ∀ (s : State) (t : Tag) (p : List Byte) (rest : List Item), Inv s → s.phase = .idle → s.tv = true →
    p.length ≤ 0xFFFFFFFF → s.inp = itemsOf (buildChunkProgram t p) ++ rest →
    (∀ k ≤ p.length + 1, ∃ u, runSteps k s = .next u ∧ u.phase ≠ .fault) ∧
    runSteps (p.length + 1) s =
      .next { s with
        inp := rest, out := s.out ++ (chunkBytes t p).map OutItem.byte,
        crc := ~~~(crc32 ([t.t0, t.t1, t.t2, t.t3] ++ p)), cnt := 0#32 } ∧
    (chunkBytes t p).length = p.length + 12 ∧ s.err = .none

/-- R236 for a host that keeps its duties (R180): after any reset, `INIT` and any sequence of checksums and of chunks whose lengths fit,
the run ends well after the steps of R234, and `OUT` is the results and the complete chunks, in order. -/
def Obligations.DutifulHostsRunEndsWell : Prop :=
  ∀ (g : ResetGarbage) (ops : List HostOp), Memory.wf g.table = true → ops.all opAdmissible = true →
    ∃ t, runSteps (257 + (opsProgram ops).length)
        { State.resetWith g with inp := itemsOf (.init :: opsProgram ops) } = .next t ∧
      RunEndedWell t ∧ t.tv = true ∧ t.out = opsOutput ops

/-! ### The host's own errors (R186) -/

/-- R186: the host refuses a dimension that is zero, exceeds the format limits (whatever they are) or does not fit the 32-bit field of
R182 (the model's inference, log entry 18), before anything is sent; with no error it sends the three chunks. -/
def Obligations.InvalidDimensionsSendNothing : Prop :=
  ∀ (limits : Nat → Nat → Bool) (w h : Nat) (z : List Byte) (failure : Option (HostError × Nat)),
    (w = 0 ∨ h = 0 ∨ limits w h = false ∨ 2 ^ 32 ≤ w ∨ 2 ^ 32 ≤ h →
      imageProgram limits w h z failure = ([], some .invalidDimensions)) ∧
    (0 < w → w < 2 ^ 32 → 0 < h → h < 2 ^ 32 → limits w h = true →
      imageProgram limits w h z none = (opsProgram (pngOps (BitVec.ofNat 32 w) (BitVec.ofNat 32 h) z), none))

/-- R186, R208: an image that the host gives up after any number `k` of its instructions (log entry 19), with an `ABORT` where an operation
is open, has no output file, leaves the block in phase `IDLE` with no fault and the table kept, and has appended a prefix of the image's
bytes; the next image gives its whole file. -/
def Obligations.FailedImageLeavesTheNextWhole : Prop :=
  ∀ (limits : Nat → Nat → Bool) (s : State) (w h w' h' : Nat) (z z' : List Byte) (e : HostError) (k : Nat) (rest : List Item),
    Inv s → s.phase = .idle → s.tv = true → z.length ≤ 0xFFFFFFFF → z'.length ≤ 0xFFFFFFFF →
    dimensionsValid limits w h = true → dimensionsValid limits w' h' = true →
    let failed := imageProgram limits w h z (some (e, k))
    let next := imageProgram limits w' h' z' none
    s.inp = itemsOf failed.1 ++ (itemsOf next.1 ++ rest) →
    ∃ t u, runSteps failed.1.length s = .next t ∧ t.phase = .idle ∧ t.err = .none ∧ t.tv = true ∧ t.table = s.table ∧
      (∃ l, l <+: opsOutput (pngOps (BitVec.ofNat 32 w) (BitVec.ofNat 32 h) z) ∧ t.out = s.out ++ l) ∧
      imageResult failed.2 s t = .hostError e ∧
      runSteps next.1.length t = .next u ∧ u.inp = rest ∧
      imageResult next.2 t u = .file (pngFile (opsOutput (pngOps (BitVec.ofNat 32 w') (BitVec.ofNat 32 h') z')))
end

