-- ==== Sys2Proof/Laws/Decode.lean ====
section
/-! SUPPORT. The fields of an encoded item, each read back where the format puts it (R71 to R73). -/

namespace Sys2Proof

theorem commandItem_kind (op : Byte) (t : Tag) (len : Length) : (commandItem op t len).kind = true := by
  simp [commandItem, Item.kind, Item.field]

theorem commandItem_op (op : Byte) (t : Tag) (len : Length) : (commandItem op t len).command.op = op := by
  apply BitVec.eq_of_getLsbD_eq
  intro i hi
  simp [commandItem, Item.command, CommandWord.op, Item.field, hi]
  interval_cases i <;> simp

theorem commandItem_rsv (op : Byte) (t : Tag) (len : Length) : (commandItem op t len).command.rsv = 0#24 := by
  apply BitVec.eq_of_getLsbD_eq
  intro i hi
  simp [commandItem, Item.command, CommandWord.rsv, Item.field, hi]
  interval_cases i <;> simp

theorem commandItem_tag (op : Byte) (t : Tag) (len : Length) : (commandItem op t len).command.tag = t := by
  obtain ⟨t0, t1, t2, t3⟩ := t
  simp only [CommandWord.tag, Tag.mk.injEq]
  refine ⟨?_, ?_, ?_, ?_⟩ <;>
  · apply BitVec.eq_of_getLsbD_eq
    intro i hi
    simp [commandItem, Item.command, Item.field, hi]
    interval_cases i <;> simp

theorem commandItem_len (op : Byte) (t : Tag) (len : Length) : (commandItem op t len).command.len = len := by
  apply BitVec.eq_of_getLsbD_eq
  intro i hi
  simp [commandItem, Item.command, CommandWord.len, Item.field, hi]
  interval_cases i <;> simp

theorem commandItem_operands (op : Byte) : (commandItem op zeroTag 0#64).command.operands = 0#96 := by
  apply BitVec.eq_of_getLsbD_eq
  intro i hi
  simp [commandItem, zeroTag, Item.command, CommandWord.operands, Item.field, hi]
  interval_cases i <;> simp

theorem dataItem_kind (b : Byte) : (Item.field b 0).kind = false := by
  simp [Item.kind, Item.field]

theorem dataItem_padding (b : Byte) : (Item.field b 0).padding = 0#120 := by
  apply BitVec.eq_of_getLsbD_eq
  intro i hi
  simp [Item.padding, Item.field, hi]

theorem dataItem_dataByte (b : Byte) : (Item.field b 0).dataByte = b := by
  apply BitVec.eq_of_getLsbD_eq
  intro i hi
  simp [Item.dataByte, Item.field, hi]
  interval_cases i <;> simp

end Sys2Proof
end

