-- ==== Sys2Proof/Laws/Memory.lean ====
section
/-! SUPPORT. The laws of the table space: a read after a write, the canonical form, and that equal tables are equal lists. -/

namespace Sys2Proof.Machine

@[simp] theorem Memory.read_nil (a : Nat) : Memory.read [] a = Memory.unlisted := rfl

theorem Memory.read_cell (k : Nat) (v : Word) (r : Memory) (a : Nat) :
    Memory.read ((k, v) :: r) a = if k = a then v else Memory.read r a := rfl

theorem Memory.wfFrom_cell {lo k : Nat} {v : Word} {r : Memory} :
    Memory.wfFrom lo ((k, v) :: r) = true ↔
      lo ≤ k ∧ k < Config.tableN ∧ v ≠ Memory.unlisted ∧ Memory.wfFrom (k + 1) r = true := by
  simp [Memory.wfFrom, and_assoc]

/-- The canonical form from a higher index is one from a lower index. -/
theorem Memory.wfFrom_mono {lo lo' : Nat} {m : Memory} (hl : lo' ≤ lo) (h : Memory.wfFrom lo m = true) :
    Memory.wfFrom lo' m = true := by
  cases m with
  | nil => rfl
  | cons c r =>
    obtain ⟨h1, h2⟩ := Memory.wfFrom_cell.mp h
    exact Memory.wfFrom_cell.mpr ⟨hl.trans h1, h2⟩

/-- Below the first listed index, every entry is unlisted. -/
theorem Memory.read_below {lo a : Nat} {m : Memory} (h : Memory.wfFrom lo m = true) (ha : a < lo) :
    Memory.read m a = Memory.unlisted := by
  induction m generalizing lo with
  | nil => rfl
  | cons c r ih =>
    obtain ⟨h1, -, -, h4⟩ := Memory.wfFrom_cell.mp h
    rw [Memory.read_cell, if_neg (by omega)]
    exact ih h4 (by omega)

theorem Memory.read_cons {lo a b : Nat} {v : Word} {r : Memory} (h : Memory.wfFrom lo r = true) (ha : a < lo) :
    Memory.read (Memory.cons a v r) b = if b = a then v else Memory.read r b := by
  unfold Memory.cons
  by_cases hv : v = Memory.unlisted
  · rw [if_pos hv]
    by_cases hb : b = a
    · rw [if_pos hb, hv, hb, Memory.read_below h ha]
    · rw [if_neg hb]
  · rw [if_neg hv, Memory.read_cell]
    by_cases hb : b = a
    · rw [if_pos hb, if_pos hb.symm]
    · rw [if_neg hb, if_neg (Ne.symm hb)]

theorem Memory.wfFrom_cons {lo a : Nat} {v : Word} {r : Memory} (hlo : lo ≤ a) (ha : a < Config.tableN)
    (h : Memory.wfFrom (a + 1) r = true) : Memory.wfFrom lo (Memory.cons a v r) = true := by
  unfold Memory.cons
  split
  · exact Memory.wfFrom_mono (by omega) h
  · exact Memory.wfFrom_cell.mpr ⟨hlo, ha, by assumption, h⟩

/-- A read after a write: the entry written reads as the value written, every other entry as before. -/
theorem Memory.read_write {lo : Nat} {m : Memory} (h : Memory.wfFrom lo m = true) (a b : Nat) (v : Word) :
    Memory.read (Memory.write m a v) b = if b = a then v else Memory.read m b := by
  induction m generalizing lo with
  | nil => exact Memory.read_cons (lo := a + 1) rfl (Nat.lt_succ_self a)
  | cons c r ih =>
    obtain ⟨k, w⟩ := c
    obtain ⟨h1, h2, h3, h4⟩ := Memory.wfFrom_cell.mp h
    unfold Memory.write
    split
    · exact Memory.read_cons (lo := a + 1) (Memory.wfFrom_cell.mpr ⟨by omega, h2, h3, h4⟩) (Nat.lt_succ_self a)
    · split
      · subst a
        rw [Memory.read_cons h4 (Nat.lt_succ_self k), Memory.read_cell]
        by_cases hb : b = k
        · rw [if_pos hb, if_pos hb]
        · rw [if_neg hb, if_neg hb, if_neg (Ne.symm hb)]
      · rw [Memory.read_cell, Memory.read_cell, ih h4]
        by_cases hk : k = b
        · rw [if_pos hk, if_pos hk, if_neg (by omega)]
        · rw [if_neg hk, if_neg hk]

theorem Memory.wfFrom_write {lo a : Nat} {m : Memory} (v : Word) (hlo : lo ≤ a) (ha : a < Config.tableN)
    (h : Memory.wfFrom lo m = true) : Memory.wfFrom lo (Memory.write m a v) = true := by
  induction m generalizing lo with
  | nil => exact Memory.wfFrom_cons hlo ha rfl
  | cons c r ih =>
    obtain ⟨k, w⟩ := c
    obtain ⟨h1, h2, h3, h4⟩ := Memory.wfFrom_cell.mp h
    unfold Memory.write
    split
    · exact Memory.wfFrom_cons hlo ha (Memory.wfFrom_cell.mpr ⟨by omega, h2, h3, h4⟩)
    · split
      · exact Memory.wfFrom_cons hlo ha (by subst a; exact h4)
      · exact Memory.wfFrom_cell.mpr ⟨h1, h2, h3, ih (by omega) h4⟩

/-- Every write inside the table keeps the canonical form. -/
theorem Memory.wf_write {a : Nat} {m : Memory} (v : Word) (ha : a < Config.tableN) (h : Memory.wf m = true) :
    Memory.wf (Memory.write m a v) = true :=
  Memory.wfFrom_write v (Nat.zero_le a) ha h

theorem Memory.wf_reset : Memory.wf State.reset.table = true := rfl

theorem Memory.ext_wfFrom {lo : Nat} {m m' : Memory} (h : Memory.wfFrom lo m = true) (h' : Memory.wfFrom lo m' = true)
    (hr : ∀ a, lo ≤ a → a < Config.tableN → Memory.read m a = Memory.read m' a) : m = m' := by
  induction m generalizing lo m' with
  | nil =>
    cases m' with
    | nil => rfl
    | cons c r =>
      obtain ⟨k, v⟩ := c
      obtain ⟨h1, h2, h3, -⟩ := Memory.wfFrom_cell.mp h'
      have := hr k h1 h2
      rw [Memory.read_cell, if_pos rfl] at this
      exact absurd this.symm h3
  | cons c r ih =>
    obtain ⟨k, v⟩ := c
    obtain ⟨h1, h2, h3, h4⟩ := Memory.wfFrom_cell.mp h
    cases m' with
    | nil =>
      have := hr k h1 h2
      rw [Memory.read_cell, if_pos rfl] at this
      exact absurd this h3
    | cons c' r' =>
      obtain ⟨k', v'⟩ := c'
      obtain ⟨h1', h2', h3', h4'⟩ := Memory.wfFrom_cell.mp h'
      have hk : k = k' := by
        rcases Nat.lt_trichotomy k k' with hlt | heq | hgt
        · have := hr k h1 h2
          rw [Memory.read_cell, if_pos rfl, Memory.read_cell, if_neg (by omega),
            Memory.read_below h4' (by omega)] at this
          exact absurd this h3
        · exact heq
        · have := hr k' h1' h2'
          rw [Memory.read_cell, if_neg (by omega), Memory.read_below h4 (by omega), Memory.read_cell, if_pos rfl] at this
          exact absurd this.symm h3'
      subst hk
      have hv : v = v' := by
        have := hr k h1 h2
        rwa [Memory.read_cell, if_pos rfl, Memory.read_cell, if_pos rfl] at this
      subst hv
      rw [ih h4 h4' fun a ha hn => ?_]
      have := hr a (by omega) hn
      rwa [Memory.read_cell, if_neg (by omega), Memory.read_cell, if_neg (by omega)] at this

/-- Equal memories are equal data: two tables in canonical form with the same entries are the same list. -/
theorem Memory.ext_wf {m m' : Memory} (h : Memory.wf m = true) (h' : Memory.wf m' = true)
    (hr : ∀ a < Config.tableN, Memory.read m a = Memory.read m' a) : m = m' :=
  Memory.ext_wfFrom h h' fun a _ => hr a

/-- An 8-bit index names an entry of the table (R55). -/
theorem index_lt_tableN (i : Byte) : i.toNat < Config.tableN := i.isLt

/-- `TABLE[i] <- v` writes entry `i` and nothing else (R51). -/
theorem State.tableRead_tableWrite {s : State} (h : Memory.wf s.table = true) (i j : Byte) (v : Word) :
    (s.tableWrite i v).tableRead j = if j = i then v else s.tableRead j := by
  refine (Memory.read_write (lo := 0) h i.toNat j.toNat v).trans ?_
  simp only [State.tableRead, BitVec.toNat_inj]

/-- `TABLE[i] <- v` keeps the canonical form. -/
theorem State.tableWrite_wf {s : State} (i : Byte) (v : Word) (h : Memory.wf s.table = true) :
    Memory.wf (s.tableWrite i v).table = true :=
  Memory.wf_write v (index_lt_tableN i) h

end Sys2Proof.Machine
end

