-- ==== Sys2Proof/Laws/Reducer.lean ====
section
/-! SUPPORT. The reference table as a list: it is in canonical form and its entries are TABLE_REF; and what the lookup step reads. -/

namespace Sys2Proof.Machine

/-- The first `k` ascending writes of the reference table: canonical, with `TABLE_REF` below `k`. -/
theorem referenceTable_prefixes (k : Nat) (hk : k ≤ Config.tableN) :
    let m := (List.range k).foldl (fun m j => Memory.write m j (tableRef (BitVec.ofNat 8 j))) []
    Memory.wf m = true ∧ ∀ a < k, Memory.read m a = tableRef (BitVec.ofNat 8 a) := by
  induction k with
  | zero => exact ⟨rfl, by omega⟩
  | succ k ih =>
    obtain ⟨hw, hr⟩ := ih (by omega)
    simp only [List.range_succ, List.foldl_append, List.foldl_cons, List.foldl_nil]
    refine ⟨Memory.wf_write _ (by omega) hw, fun a ha => ?_⟩
    rw [Memory.read_write (lo := 0) hw]
    split
    · next h => rw [h]
    · exact hr a (by omega)

theorem referenceTable_wf : Memory.wf referenceTable = true := by
  unfold referenceTable
  exact (referenceTable_prefixes Config.tableN le_rfl).1

theorem referenceTable_read (n : Byte) : Memory.read referenceTable n.toNat = tableRef n := by
  unfold referenceTable
  have := (referenceTable_prefixes Config.tableN le_rfl).2 n.toNat n.isLt
  rwa [BitVec.ofNat_toNat, BitVec.setWidth_eq] at this

theorem tableRead_of_reference {s : State} (h : s.table = referenceTable) (n : Byte) :
    s.tableRead n = reduce8 (n.setWidth 32) := by
  rw [State.tableRead, h]
  exact referenceTable_read n

/-- A canonical table whose entries are `TABLE_REF` is the reference table. -/
theorem eq_referenceTable {m : Memory} (h : Memory.wf m = true) (hr : ∀ n : Byte, Memory.read m n.toNat = tableRef n) :
    m = referenceTable := by
  refine Memory.ext_wf h referenceTable_wf fun a ha => ?_
  have hm : (BitVec.ofNat 8 a).toNat = a := Nat.mod_eq_of_lt ha
  rw [← hm, hr, referenceTable_read]

/-- Over a table that holds `TABLE_REF`, the lookup step is the one of the reference (R28 (e), R120). -/
theorem State.crcUpdate_ref {s : State} (h : ∀ n : Byte, s.tableRead n = tableRef n) : s.crcUpdate = crcUpdateRef := by
  funext r b
  simp only [State.crcUpdate, crcUpdateRef, h]

theorem State.crcOver_nil (s : State) (r : Word) : s.crcOver r [] = r := rfl

theorem State.crcOver_step (s : State) (r : Word) (b : Byte) (l : List Byte) :
    s.crcOver r (b :: l) = s.crcOver (s.crcUpdate r b) l := rfl

theorem complement_eq_not (r : Word) : complement r = ~~~r := by
  rw [complement, Config.xorOut, show (0xFFFFFFFF#32 : Word) = BitVec.allOnes 32 from rfl, BitVec.xor_allOnes]

end Sys2Proof.Machine
end

