-- ==== Sys2Proof/Laws/State.lean ====
section
/-! SUPPORT. Every field after every update, by rfl, so that no proof unfolds a record update; and what does not change a table read. -/

namespace Sys2Proof.Machine

variable (s : State)

/-! `State.setPhase` -/

@[simp] theorem State.setPhase_table (p : Phase) : (s.setPhase p).table = s.table := rfl
@[simp] theorem State.setPhase_tv (p : Phase) : (s.setPhase p).tv = s.tv := rfl
@[simp] theorem State.setPhase_crc (p : Phase) : (s.setPhase p).crc = s.crc := rfl
@[simp] theorem State.setPhase_cnt (p : Phase) : (s.setPhase p).cnt = s.cnt := rfl
@[simp] theorem State.setPhase_idx (p : Phase) : (s.setPhase p).idx = s.idx := rfl
@[simp] theorem State.setPhase_phase (p : Phase) : (s.setPhase p).phase = p := rfl
@[simp] theorem State.setPhase_err (p : Phase) : (s.setPhase p).err = s.err := rfl
@[simp] theorem State.setPhase_inp (p : Phase) : (s.setPhase p).inp = s.inp := rfl
@[simp] theorem State.setPhase_out (p : Phase) : (s.setPhase p).out = s.out := rfl
@[simp] theorem State.setPhase_tableRead (p : Phase) (j : Byte) : (s.setPhase p).tableRead j = s.tableRead j := rfl
@[simp] theorem State.setPhase_crcUpdate (p : Phase) (r : Word) (c : Byte) : (s.setPhase p).crcUpdate r c = s.crcUpdate r c := rfl
@[simp] theorem State.setPhase_crcOver (p : Phase) (r : Word) (m : List Byte) : (s.setPhase p).crcOver r m = s.crcOver r m := rfl

/-! `State.setCrc` -/

@[simp] theorem State.setCrc_table (v : Word) : (s.setCrc v).table = s.table := rfl
@[simp] theorem State.setCrc_tv (v : Word) : (s.setCrc v).tv = s.tv := rfl
@[simp] theorem State.setCrc_crc (v : Word) : (s.setCrc v).crc = v := rfl
@[simp] theorem State.setCrc_cnt (v : Word) : (s.setCrc v).cnt = s.cnt := rfl
@[simp] theorem State.setCrc_idx (v : Word) : (s.setCrc v).idx = s.idx := rfl
@[simp] theorem State.setCrc_phase (v : Word) : (s.setCrc v).phase = s.phase := rfl
@[simp] theorem State.setCrc_err (v : Word) : (s.setCrc v).err = s.err := rfl
@[simp] theorem State.setCrc_inp (v : Word) : (s.setCrc v).inp = s.inp := rfl
@[simp] theorem State.setCrc_out (v : Word) : (s.setCrc v).out = s.out := rfl
@[simp] theorem State.setCrc_tableRead (v : Word) (j : Byte) : (s.setCrc v).tableRead j = s.tableRead j := rfl
@[simp] theorem State.setCrc_crcUpdate (v : Word) (r : Word) (c : Byte) : (s.setCrc v).crcUpdate r c = s.crcUpdate r c := rfl
@[simp] theorem State.setCrc_crcOver (v : Word) (r : Word) (m : List Byte) : (s.setCrc v).crcOver r m = s.crcOver r m := rfl

/-! `State.setCnt` -/

@[simp] theorem State.setCnt_table (v : Word) : (s.setCnt v).table = s.table := rfl
@[simp] theorem State.setCnt_tv (v : Word) : (s.setCnt v).tv = s.tv := rfl
@[simp] theorem State.setCnt_crc (v : Word) : (s.setCnt v).crc = s.crc := rfl
@[simp] theorem State.setCnt_cnt (v : Word) : (s.setCnt v).cnt = v := rfl
@[simp] theorem State.setCnt_idx (v : Word) : (s.setCnt v).idx = s.idx := rfl
@[simp] theorem State.setCnt_phase (v : Word) : (s.setCnt v).phase = s.phase := rfl
@[simp] theorem State.setCnt_err (v : Word) : (s.setCnt v).err = s.err := rfl
@[simp] theorem State.setCnt_inp (v : Word) : (s.setCnt v).inp = s.inp := rfl
@[simp] theorem State.setCnt_out (v : Word) : (s.setCnt v).out = s.out := rfl
@[simp] theorem State.setCnt_tableRead (v : Word) (j : Byte) : (s.setCnt v).tableRead j = s.tableRead j := rfl
@[simp] theorem State.setCnt_crcUpdate (v : Word) (r : Word) (c : Byte) : (s.setCnt v).crcUpdate r c = s.crcUpdate r c := rfl
@[simp] theorem State.setCnt_crcOver (v : Word) (r : Word) (m : List Byte) : (s.setCnt v).crcOver r m = s.crcOver r m := rfl

/-! `State.setIdx` -/

@[simp] theorem State.setIdx_table (v : Byte) : (s.setIdx v).table = s.table := rfl
@[simp] theorem State.setIdx_tv (v : Byte) : (s.setIdx v).tv = s.tv := rfl
@[simp] theorem State.setIdx_crc (v : Byte) : (s.setIdx v).crc = s.crc := rfl
@[simp] theorem State.setIdx_cnt (v : Byte) : (s.setIdx v).cnt = s.cnt := rfl
@[simp] theorem State.setIdx_idx (v : Byte) : (s.setIdx v).idx = v := rfl
@[simp] theorem State.setIdx_phase (v : Byte) : (s.setIdx v).phase = s.phase := rfl
@[simp] theorem State.setIdx_err (v : Byte) : (s.setIdx v).err = s.err := rfl
@[simp] theorem State.setIdx_inp (v : Byte) : (s.setIdx v).inp = s.inp := rfl
@[simp] theorem State.setIdx_out (v : Byte) : (s.setIdx v).out = s.out := rfl
@[simp] theorem State.setIdx_tableRead (v : Byte) (j : Byte) : (s.setIdx v).tableRead j = s.tableRead j := rfl
@[simp] theorem State.setIdx_crcUpdate (v : Byte) (r : Word) (c : Byte) : (s.setIdx v).crcUpdate r c = s.crcUpdate r c := rfl
@[simp] theorem State.setIdx_crcOver (v : Byte) (r : Word) (m : List Byte) : (s.setIdx v).crcOver r m = s.crcOver r m := rfl

/-! `State.setValid` -/

@[simp] theorem State.setValid_table : (s.setValid).table = s.table := rfl
@[simp] theorem State.setValid_tv : (s.setValid).tv = true := rfl
@[simp] theorem State.setValid_crc : (s.setValid).crc = s.crc := rfl
@[simp] theorem State.setValid_cnt : (s.setValid).cnt = s.cnt := rfl
@[simp] theorem State.setValid_idx : (s.setValid).idx = s.idx := rfl
@[simp] theorem State.setValid_phase : (s.setValid).phase = s.phase := rfl
@[simp] theorem State.setValid_err : (s.setValid).err = s.err := rfl
@[simp] theorem State.setValid_inp : (s.setValid).inp = s.inp := rfl
@[simp] theorem State.setValid_out : (s.setValid).out = s.out := rfl
@[simp] theorem State.setValid_tableRead (j : Byte) : (s.setValid).tableRead j = s.tableRead j := rfl
@[simp] theorem State.setValid_crcUpdate (r : Word) (c : Byte) : (s.setValid).crcUpdate r c = s.crcUpdate r c := rfl
@[simp] theorem State.setValid_crcOver (r : Word) (m : List Byte) : (s.setValid).crcOver r m = s.crcOver r m := rfl

/-! `State.emit` -/

@[simp] theorem State.emit_table (l : List OutItem) : (s.emit l).table = s.table := rfl
@[simp] theorem State.emit_tv (l : List OutItem) : (s.emit l).tv = s.tv := rfl
@[simp] theorem State.emit_crc (l : List OutItem) : (s.emit l).crc = s.crc := rfl
@[simp] theorem State.emit_cnt (l : List OutItem) : (s.emit l).cnt = s.cnt := rfl
@[simp] theorem State.emit_idx (l : List OutItem) : (s.emit l).idx = s.idx := rfl
@[simp] theorem State.emit_phase (l : List OutItem) : (s.emit l).phase = s.phase := rfl
@[simp] theorem State.emit_err (l : List OutItem) : (s.emit l).err = s.err := rfl
@[simp] theorem State.emit_inp (l : List OutItem) : (s.emit l).inp = s.inp := rfl
@[simp] theorem State.emit_out (l : List OutItem) : (s.emit l).out = s.out ++ l := rfl
@[simp] theorem State.emit_tableRead (l : List OutItem) (j : Byte) : (s.emit l).tableRead j = s.tableRead j := rfl
@[simp] theorem State.emit_crcUpdate (l : List OutItem) (r : Word) (c : Byte) : (s.emit l).crcUpdate r c = s.crcUpdate r c := rfl
@[simp] theorem State.emit_crcOver (l : List OutItem) (r : Word) (m : List Byte) : (s.emit l).crcOver r m = s.crcOver r m := rfl

/-! `State.dropHead` -/

@[simp] theorem State.dropHead_table (l : List Item) : (s.dropHead l).table = s.table := rfl
@[simp] theorem State.dropHead_tv (l : List Item) : (s.dropHead l).tv = s.tv := rfl
@[simp] theorem State.dropHead_crc (l : List Item) : (s.dropHead l).crc = s.crc := rfl
@[simp] theorem State.dropHead_cnt (l : List Item) : (s.dropHead l).cnt = s.cnt := rfl
@[simp] theorem State.dropHead_idx (l : List Item) : (s.dropHead l).idx = s.idx := rfl
@[simp] theorem State.dropHead_phase (l : List Item) : (s.dropHead l).phase = s.phase := rfl
@[simp] theorem State.dropHead_err (l : List Item) : (s.dropHead l).err = s.err := rfl
@[simp] theorem State.dropHead_inp (l : List Item) : (s.dropHead l).inp = l := rfl
@[simp] theorem State.dropHead_out (l : List Item) : (s.dropHead l).out = s.out := rfl
@[simp] theorem State.dropHead_tableRead (l : List Item) (j : Byte) : (s.dropHead l).tableRead j = s.tableRead j := rfl
@[simp] theorem State.dropHead_crcUpdate (l : List Item) (r : Word) (c : Byte) : (s.dropHead l).crcUpdate r c = s.crcUpdate r c := rfl
@[simp] theorem State.dropHead_crcOver (l : List Item) (r : Word) (m : List Byte) : (s.dropHead l).crcOver r m = s.crcOver r m := rfl

/-! `State.raise` -/

@[simp] theorem State.raise_table (e : Err) : (s.raise e).table = s.table := rfl
@[simp] theorem State.raise_tv (e : Err) : (s.raise e).tv = s.tv := rfl
@[simp] theorem State.raise_crc (e : Err) : (s.raise e).crc = s.crc := rfl
@[simp] theorem State.raise_cnt (e : Err) : (s.raise e).cnt = s.cnt := rfl
@[simp] theorem State.raise_idx (e : Err) : (s.raise e).idx = s.idx := rfl
@[simp] theorem State.raise_phase (e : Err) : (s.raise e).phase = .fault := rfl
@[simp] theorem State.raise_err (e : Err) : (s.raise e).err = e := rfl
@[simp] theorem State.raise_inp (e : Err) : (s.raise e).inp = s.inp := rfl
@[simp] theorem State.raise_out (e : Err) : (s.raise e).out = s.out := rfl
@[simp] theorem State.raise_tableRead (e : Err) (j : Byte) : (s.raise e).tableRead j = s.tableRead j := rfl
@[simp] theorem State.raise_crcUpdate (e : Err) (r : Word) (c : Byte) : (s.raise e).crcUpdate r c = s.crcUpdate r c := rfl
@[simp] theorem State.raise_crcOver (e : Err) (r : Word) (m : List Byte) : (s.raise e).crcOver r m = s.crcOver r m := rfl

/-! `State.toIdle` -/

@[simp] theorem State.toIdle_table : (s.toIdle).table = s.table := rfl
@[simp] theorem State.toIdle_tv : (s.toIdle).tv = s.tv := rfl
@[simp] theorem State.toIdle_crc : (s.toIdle).crc = s.crc := rfl
@[simp] theorem State.toIdle_cnt : (s.toIdle).cnt = s.cnt := rfl
@[simp] theorem State.toIdle_idx : (s.toIdle).idx = s.idx := rfl
@[simp] theorem State.toIdle_phase : (s.toIdle).phase = .idle := rfl
@[simp] theorem State.toIdle_err : (s.toIdle).err = .none := rfl
@[simp] theorem State.toIdle_inp : (s.toIdle).inp = s.inp := rfl
@[simp] theorem State.toIdle_out : (s.toIdle).out = s.out := rfl
@[simp] theorem State.toIdle_tableRead (j : Byte) : (s.toIdle).tableRead j = s.tableRead j := rfl
@[simp] theorem State.toIdle_crcUpdate (r : Word) (c : Byte) : (s.toIdle).crcUpdate r c = s.crcUpdate r c := rfl
@[simp] theorem State.toIdle_crcOver (r : Word) (m : List Byte) : (s.toIdle).crcOver r m = s.crcOver r m := rfl

/-! `State.tableWrite` -/

@[simp] theorem State.tableWrite_table (i : Byte) (v : Word) : (s.tableWrite i v).table = Memory.write s.table i.toNat v := rfl
@[simp] theorem State.tableWrite_tv (i : Byte) (v : Word) : (s.tableWrite i v).tv = s.tv := rfl
@[simp] theorem State.tableWrite_crc (i : Byte) (v : Word) : (s.tableWrite i v).crc = s.crc := rfl
@[simp] theorem State.tableWrite_cnt (i : Byte) (v : Word) : (s.tableWrite i v).cnt = s.cnt := rfl
@[simp] theorem State.tableWrite_idx (i : Byte) (v : Word) : (s.tableWrite i v).idx = s.idx := rfl
@[simp] theorem State.tableWrite_phase (i : Byte) (v : Word) : (s.tableWrite i v).phase = s.phase := rfl
@[simp] theorem State.tableWrite_err (i : Byte) (v : Word) : (s.tableWrite i v).err = s.err := rfl
@[simp] theorem State.tableWrite_inp (i : Byte) (v : Word) : (s.tableWrite i v).inp = s.inp := rfl
@[simp] theorem State.tableWrite_out (i : Byte) (v : Word) : (s.tableWrite i v).out = s.out := rfl

/-! `State.hostAppend` -/

@[simp] theorem State.hostAppend_table (p : Item) : (s.hostAppend p).table = s.table := rfl
@[simp] theorem State.hostAppend_tv (p : Item) : (s.hostAppend p).tv = s.tv := rfl
@[simp] theorem State.hostAppend_crc (p : Item) : (s.hostAppend p).crc = s.crc := rfl
@[simp] theorem State.hostAppend_cnt (p : Item) : (s.hostAppend p).cnt = s.cnt := rfl
@[simp] theorem State.hostAppend_idx (p : Item) : (s.hostAppend p).idx = s.idx := rfl
@[simp] theorem State.hostAppend_phase (p : Item) : (s.hostAppend p).phase = s.phase := rfl
@[simp] theorem State.hostAppend_err (p : Item) : (s.hostAppend p).err = s.err := rfl
@[simp] theorem State.hostAppend_inp (p : Item) : (s.hostAppend p).inp = s.inp ++ [p] := rfl
@[simp] theorem State.hostAppend_out (p : Item) : (s.hostAppend p).out = s.out := rfl
@[simp] theorem State.hostAppend_tableRead (p : Item) (j : Byte) : (s.hostAppend p).tableRead j = s.tableRead j := rfl
@[simp] theorem State.hostAppend_crcUpdate (p : Item) (r : Word) (c : Byte) : (s.hostAppend p).crcUpdate r c = s.crcUpdate r c := rfl
@[simp] theorem State.hostAppend_crcOver (p : Item) (r : Word) (m : List Byte) : (s.hostAppend p).crcOver r m = s.crcOver r m := rfl

/-! `State.resetWith` -/

@[simp] theorem State.resetWith_table (g : ResetGarbage) : (State.resetWith g).table = g.table := rfl
@[simp] theorem State.resetWith_tv (g : ResetGarbage) : (State.resetWith g).tv = false := rfl
@[simp] theorem State.resetWith_crc (g : ResetGarbage) : (State.resetWith g).crc = g.crc := rfl
@[simp] theorem State.resetWith_cnt (g : ResetGarbage) : (State.resetWith g).cnt = g.cnt := rfl
@[simp] theorem State.resetWith_idx (g : ResetGarbage) : (State.resetWith g).idx = g.idx := rfl
@[simp] theorem State.resetWith_phase (g : ResetGarbage) : (State.resetWith g).phase = .idle := rfl
@[simp] theorem State.resetWith_err (g : ResetGarbage) : (State.resetWith g).err = .none := rfl
@[simp] theorem State.resetWith_inp (g : ResetGarbage) : (State.resetWith g).inp = [] := rfl
@[simp] theorem State.resetWith_out (g : ResetGarbage) : (State.resetWith g).out = [] := rfl

/-- Two states with the same fields are the same state. -/
theorem State.ext_fields {s t : State} (h1 : s.table = t.table) (h2 : s.tv = t.tv) (h3 : s.crc = t.crc)
    (h4 : s.cnt = t.cnt) (h5 : s.idx = t.idx) (h6 : s.phase = t.phase) (h7 : s.err = t.err)
    (h8 : s.inp = t.inp) (h9 : s.out = t.out) : s = t := by
  cases s; cases t; simp_all

end Sys2Proof.Machine
end

