-- ==== Sys2Proof/Laws/Ops.lean ====
section
/-! SUPPORT. What the shared operations can do, each said once: the gate of a consumed item, the enabled step, the chunk's opening, step
and close, one step of the block (`step_cases`) and one instruction (`exec_cases`). -/

namespace Sys2Proof.Machine

/-! ### The gate (R163, R164) -/

theorem State.consuming_init {s : State} {f : State → State} (h : s.phase = .init) :
    s.consuming f = .fault .consumeDuringFill := by
  simp [State.consuming, h]

theorem State.consuming_fault {s : State} {f : State → State} (h : s.phase = .fault) : s.consuming f = .next s := by
  simp [State.consuming, h]

theorem State.consuming_open {s : State} {f : State → State} (h : s.phase ≠ .init) (h' : s.phase ≠ .fault) :
    s.consuming f = .next (f s) := by
  unfold State.consuming; split <;> simp_all

/-- If the gate answers a next state, the item was discarded in phase `FAULT` or it acted. -/
theorem State.consuming_cases {s t : State} {f : State → State} (h : s.consuming f = .next t) :
    s.phase ≠ .init ∧ ((s.phase = .fault ∧ t = s) ∨ (s.phase ≠ .fault ∧ t = f s)) := by
  unfold State.consuming at h; split at h <;> simp_all

/-! ### The enabled step (R161) -/

theorem enabled_init {s : State} (h : s.phase = .init) : enabled s = .fill := by
  simp [enabled, h]

theorem enabled_consume {s : State} (h : s.phase ≠ .init) : enabled s = fetch s := by
  unfold enabled; split <;> simp_all

theorem fetch_nil {s : State} (h : s.inp = []) : fetch s = .waiting := by
  simp [fetch, h]

theorem fetch_item {s : State} {p : Item} {rest : List Item} {i : Instr} (h : s.inp = p :: rest) (hd : decode p = some i) :
    fetch s = .item i (s.dropHead rest) := by
  simp [fetch, h, hd]

theorem fetch_illegal {s : State} {p : Item} {rest : List Item} (h : s.inp = p :: rest) (hd : decode p = none) :
    fetch s = .illegal (s.dropHead rest) := by
  simp [fetch, h, hd]

/-- Everything one step of the block can do: fill, wait, consume an illegal item, or run the decoded instruction. -/
theorem step_cases {s t : State} (h : step s = .next t) :
    (s.phase = .init ∧ t = fillStep s) ∨
    (s.phase ≠ .init ∧ s.inp = [] ∧ t = s) ∨
    (∃ p rest, s.phase ≠ .init ∧ s.inp = p :: rest ∧ decode p = none ∧
      consumeIllegal (s.dropHead rest) = .next t) ∨
    (∃ p rest i, s.phase ≠ .init ∧ s.inp = p :: rest ∧ decode p = some i ∧ exec i (s.dropHead rest) = .next t) := by
  by_cases hp : s.phase = .init
  · simp only [step, enabled_init hp] at h
    exact .inl ⟨hp, by cases h; rfl⟩
  · simp only [step, enabled_consume hp] at h
    cases hi : s.inp with
    | nil =>
      simp only [fetch_nil hi] at h
      exact .inr (.inl ⟨hp, rfl, by cases h; rfl⟩)
    | cons p rest =>
      cases hd : decode p with
      | none =>
        simp only [fetch_illegal hi hd] at h
        exact .inr (.inr (.inl ⟨p, rest, hp, rfl, hd, h⟩))
      | some i =>
        simp only [fetch_item hi hd] at h
        exact .inr (.inr (.inr ⟨p, rest, i, hp, rfl, hd, h⟩))

/-- Everything an instruction can do, when it answers a next state: it is discarded in phase `FAULT` or INIT finds the table valid; ABORT
returns; a fault is taken; or it has its own effect. -/
theorem exec_cases {i : Instr} {s t : State} (h : exec i s = .next t) :
    s.phase ≠ .init ∧
    ((t = s ∧ ((s.phase = .fault ∧ i ≠ .abort) ∨ (i = .init ∧ s.phase = .idle ∧ s.tv = true))) ∨
     (i = .abort ∧ t = s.toIdle) ∨
     (∃ e, t = s.raise e ∧ i ≠ .abort ∧ s.phase ≠ .fault ∧ e ≠ .none ∧ e ≠ .illegalCommand ∧
       (e = .payloadTooLarge → s.phase = .idle ∧ s.tv = true ∧ ∃ tag len, i = .chunk tag len ∧ lenTooLarge len = true) ∧
       (e = .tableNotReady → s.phase = .idle ∧ s.tv = false ∧ (i = .span ∨ ∃ tag len, i = .chunk tag len)) ∧
       (e = .sequenceError →
         (s.phase = .idle ∧ (i = .endSpan ∨ ∃ b, i = .data b)) ∨
         (s.phase = .span ∧ (i = .init ∨ i = .span ∨ ∃ tag len, i = .chunk tag len)) ∨
         (s.phase = .payload ∧ (i = .init ∨ i = .span ∨ i = .endSpan ∨ ∃ tag len, i = .chunk tag len)))) ∨
     (i = .init ∧ s.phase = .idle ∧ s.tv = false ∧ t = s.beginFill) ∨
     (i = .span ∧ s.phase = .idle ∧ s.tv = true ∧ t = (s.setCrc Config.initV).setPhase .span) ∨
     (i = .endSpan ∧ s.phase = .span ∧ t = (s.emit [.word (complement s.crc)]).setPhase .idle) ∨
     (∃ tag len, i = .chunk tag len ∧ s.phase = .idle ∧ s.tv = true ∧ lenTooLarge len = false ∧
       t = s.openChunk tag (lenLow len)) ∨
     (∃ b, i = .data b ∧ s.phase = .span ∧ t = s.setCrc (s.crcUpdate s.crc b)) ∨
     (∃ b, i = .data b ∧ s.phase = .payload ∧ t = payloadStep b s)) := by
  cases i with
  | init =>
    obtain ⟨h0, ⟨hf, rfl⟩ | ⟨hf, rfl⟩⟩ := State.consuming_cases h
    · exact ⟨h0, .inl ⟨rfl, .inl ⟨hf, nofun⟩⟩⟩
    · refine ⟨h0, ?_⟩
      unfold initAct
      split
      · next hp => cases htv : s.tv <;> simp [hp]
      all_goals exact .inr (.inr (.inl ⟨_, rfl, nofun, hf, nofun, nofun, nofun, nofun, by simp_all⟩))
  | span =>
    obtain ⟨h0, ⟨hf, rfl⟩ | ⟨hf, rfl⟩⟩ := State.consuming_cases h
    · exact ⟨h0, .inl ⟨rfl, .inl ⟨hf, nofun⟩⟩⟩
    · refine ⟨h0, ?_⟩
      unfold spanAct
      split
      · next hp =>
        cases htv : s.tv
        · exact .inr (.inr (.inl ⟨.tableNotReady, by simp, nofun, hf, nofun, nofun, nofun, by simp [hp], nofun⟩))
        · simp [hp]
      all_goals exact .inr (.inr (.inl ⟨_, rfl, nofun, hf, nofun, nofun, nofun, nofun, by simp_all⟩))
  | endSpan =>
    obtain ⟨h0, ⟨hf, rfl⟩ | ⟨hf, rfl⟩⟩ := State.consuming_cases h
    · exact ⟨h0, .inl ⟨rfl, .inl ⟨hf, nofun⟩⟩⟩
    · refine ⟨h0, ?_⟩
      unfold endAct
      split
      · next hp => simp [hp]
      all_goals exact .inr (.inr (.inl ⟨_, rfl, nofun, hf, nofun, nofun, nofun, nofun, by simp_all⟩))
  | chunk tag len =>
    obtain ⟨h0, ⟨hf, rfl⟩ | ⟨hf, rfl⟩⟩ := State.consuming_cases h
    · exact ⟨h0, .inl ⟨rfl, .inl ⟨hf, nofun⟩⟩⟩
    · refine ⟨h0, ?_⟩
      unfold chunkAct
      split
      · next hp =>
        cases htv : s.tv
        · exact .inr (.inr (.inl ⟨.tableNotReady, by simp, nofun, hf, nofun, nofun, nofun, by simp [hp], nofun⟩))
        · cases hl : lenTooLarge len
          · simp [hp, hl]
          · exact .inr (.inr (.inl ⟨.payloadTooLarge, by simp, nofun, hf, nofun, nofun, by simp [hp, hl], nofun, nofun⟩))
      all_goals exact .inr (.inr (.inl ⟨_, rfl, nofun, hf, nofun, nofun, nofun, nofun, by simp_all⟩))
  | abort =>
    simp only [exec, execAbort] at h
    split at h <;> simp_all
  | data b =>
    obtain ⟨h0, ⟨hf, rfl⟩ | ⟨hf, rfl⟩⟩ := State.consuming_cases h
    · exact ⟨h0, .inl ⟨rfl, .inl ⟨hf, nofun⟩⟩⟩
    · refine ⟨h0, ?_⟩
      unfold dataAct
      split
      · next hp => simp [hp]
      · next hp => simp [hp]
      all_goals exact .inr (.inr (.inl ⟨_, rfl, nofun, hf, nofun, nofun, nofun, nofun, by simp_all⟩))

/-! ### The fill (R105) -/

theorem State.advanceFill_last {s : State} (h : s.idx = 255#8) : s.advanceFill = s.setValid.setPhase .idle := by
  simp [State.advanceFill, h]

theorem State.advanceFill_more {s : State} (h : s.idx ≠ 255#8) : s.advanceFill = s.setIdx (s.idx + 1#8) := by
  simp [State.advanceFill, h]

/-! ### The framer (R142, R143) -/

theorem State.closeIfPaid_paid {s : State} (h : s.cnt = 0#32) : s.closeIfPaid = s.closeChunk := by
  simp [State.closeIfPaid, h]

theorem State.closeIfPaid_owing {s : State} (h : s.cnt ≠ 0#32) : s.closeIfPaid = s.setPhase .payload := by
  simp [State.closeIfPaid, h]

/-- The close writes `OUT` and `PHASE` and nothing else. -/
theorem State.closeChunk_eq (s : State) :
    s.closeChunk = { s with out := s.out ++ byteItems (be32 (complement s.crc)), phase := .idle } := rfl

/-- A chunk without payload: header, tag and CRC in one step (R142). -/
theorem State.openChunk_empty (s : State) (t : Tag) :
    s.openChunk t 0#32 =
      { s with
        out := s.out ++ byteItems (be32 0#32 ++ tagBytes t) ++
          byteItems (be32 (complement (s.crcOver Config.initV (tagBytes t)))),
        crc := s.crcOver Config.initV (tagBytes t), cnt := 0#32, phase := .idle } := rfl

/-- A chunk with payload: header and tag, and the count is loaded (R142). -/
theorem State.openChunk_owing (s : State) (t : Tag) {n : Word} (h : n ≠ 0#32) :
    s.openChunk t n =
      { s with
        out := s.out ++ byteItems (be32 n ++ tagBytes t),
        crc := s.crcOver Config.initV (tagBytes t), cnt := n, phase := .payload } := by
  unfold State.openChunk
  rw [State.closeIfPaid_owing (by simpa using h)]
  rfl

/-- The payload step on the last byte owed (R143). -/
theorem payloadStep_last (b : Byte) {s : State} (h : s.cnt = 1#32) :
    payloadStep b s =
      { s with
        out := s.out ++ [.byte b] ++ byteItems (be32 (complement (s.crcUpdate s.crc b))),
        crc := s.crcUpdate s.crc b, cnt := 0#32, phase := .idle } := by
  unfold payloadStep
  rw [State.closeIfPaid_paid (by simp [h]), h]
  rfl

/-- The payload step on any other byte (R143). -/
theorem payloadStep_more (b : Byte) {s : State} (h : s.cnt ≠ 1#32) :
    payloadStep b s =
      { s with
        out := s.out ++ [.byte b], crc := s.crcUpdate s.crc b, cnt := s.cnt - 1#32, phase := .payload } := by
  unfold payloadStep
  rw [State.closeIfPaid_owing]
  · rfl
  · intro h0
    exact h (by simpa using (BitVec.sub_eq_iff_eq_add.mp h0))

/-! What the composed updates leave alone, field by field. -/

@[simp] theorem State.closeIfPaid_table (s : State) : s.closeIfPaid.table = s.table := by
  unfold State.closeIfPaid; split <;> rfl

@[simp] theorem State.closeIfPaid_tv (s : State) : s.closeIfPaid.tv = s.tv := by
  unfold State.closeIfPaid; split <;> rfl

@[simp] theorem State.closeIfPaid_crc (s : State) : s.closeIfPaid.crc = s.crc := by
  unfold State.closeIfPaid; split <;> rfl

@[simp] theorem State.closeIfPaid_cnt (s : State) : s.closeIfPaid.cnt = s.cnt := by
  unfold State.closeIfPaid; split <;> rfl

@[simp] theorem State.closeIfPaid_idx (s : State) : s.closeIfPaid.idx = s.idx := by
  unfold State.closeIfPaid; split <;> rfl

@[simp] theorem State.closeIfPaid_err (s : State) : s.closeIfPaid.err = s.err := by
  unfold State.closeIfPaid; split <;> rfl

@[simp] theorem State.closeIfPaid_inp (s : State) : s.closeIfPaid.inp = s.inp := by
  unfold State.closeIfPaid; split <;> rfl

@[simp] theorem State.openChunk_table (s : State) (t : Tag) (n : Word) : (s.openChunk t n).table = s.table := by
  simp [State.openChunk]

@[simp] theorem State.openChunk_tv (s : State) (t : Tag) (n : Word) : (s.openChunk t n).tv = s.tv := by
  simp [State.openChunk]

@[simp] theorem State.openChunk_idx (s : State) (t : Tag) (n : Word) : (s.openChunk t n).idx = s.idx := by
  simp [State.openChunk]

@[simp] theorem State.openChunk_err (s : State) (t : Tag) (n : Word) : (s.openChunk t n).err = s.err := by
  simp [State.openChunk]

@[simp] theorem State.openChunk_inp (s : State) (t : Tag) (n : Word) : (s.openChunk t n).inp = s.inp := by
  simp [State.openChunk]

@[simp] theorem payloadStep_table (b : Byte) (s : State) : (payloadStep b s).table = s.table := by
  simp [payloadStep]

@[simp] theorem payloadStep_tv (b : Byte) (s : State) : (payloadStep b s).tv = s.tv := by
  simp [payloadStep]

@[simp] theorem payloadStep_idx (b : Byte) (s : State) : (payloadStep b s).idx = s.idx := by
  simp [payloadStep]

@[simp] theorem payloadStep_err (b : Byte) (s : State) : (payloadStep b s).err = s.err := by
  simp [payloadStep]

@[simp] theorem payloadStep_inp (b : Byte) (s : State) : (payloadStep b s).inp = s.inp := by
  simp [payloadStep]

@[simp] theorem State.beginFill_table (s : State) : s.beginFill.table = s.table := rfl

@[simp] theorem State.beginFill_tv (s : State) : s.beginFill.tv = s.tv := rfl

@[simp] theorem State.beginFill_crc (s : State) : s.beginFill.crc = s.crc := rfl

@[simp] theorem State.beginFill_cnt (s : State) : s.beginFill.cnt = s.cnt := rfl

@[simp] theorem State.beginFill_err (s : State) : s.beginFill.err = s.err := rfl

@[simp] theorem State.beginFill_inp (s : State) : s.beginFill.inp = s.inp := rfl

@[simp] theorem State.beginFill_out (s : State) : s.beginFill.out = s.out := rfl

@[simp] theorem State.advanceFill_table (s : State) : s.advanceFill.table = s.table := by
  unfold State.advanceFill; split <;> rfl

@[simp] theorem State.advanceFill_crc (s : State) : s.advanceFill.crc = s.crc := by
  unfold State.advanceFill; split <;> rfl

@[simp] theorem State.advanceFill_cnt (s : State) : s.advanceFill.cnt = s.cnt := by
  unfold State.advanceFill; split <;> rfl

@[simp] theorem State.advanceFill_err (s : State) : s.advanceFill.err = s.err := by
  unfold State.advanceFill; split <;> rfl

@[simp] theorem State.advanceFill_inp (s : State) : s.advanceFill.inp = s.inp := by
  unfold State.advanceFill; split <;> rfl

@[simp] theorem State.advanceFill_out (s : State) : s.advanceFill.out = s.out := by
  unfold State.advanceFill; split <;> rfl

@[simp] theorem State.openChunk_crc (s : State) (t : Tag) (n : Word) :
    (s.openChunk t n).crc = s.crcOver Config.initV (tagBytes t) := by
  simp [State.openChunk]

@[simp] theorem State.openChunk_cnt (s : State) (t : Tag) (n : Word) : (s.openChunk t n).cnt = n := by
  simp [State.openChunk]

@[simp] theorem payloadStep_crc (b : Byte) (s : State) : (payloadStep b s).crc = s.crcUpdate s.crc b := by
  simp [payloadStep]

@[simp] theorem payloadStep_cnt (b : Byte) (s : State) : (payloadStep b s).cnt = s.cnt - 1#32 := by
  simp [payloadStep]

/-- After the close test, the phase is `PAYLOAD` exactly when bytes are owed. -/
theorem State.closeIfPaid_phase (s : State) :
    (s.closeIfPaid.phase = .idle ∧ s.cnt = 0#32) ∨ (s.closeIfPaid.phase = .payload ∧ s.cnt ≠ 0#32) := by
  by_cases h : s.cnt = 0#32
  · exact .inl ⟨by rw [State.closeIfPaid_paid h]; rfl, h⟩
  · exact .inr ⟨by rw [State.closeIfPaid_owing h]; rfl, h⟩

theorem State.openChunk_phase (s : State) (t : Tag) (n : Word) :
    ((s.openChunk t n).phase = .idle ∧ n = 0#32) ∨ ((s.openChunk t n).phase = .payload ∧ n ≠ 0#32) :=
  State.closeIfPaid_phase _

theorem payloadStep_phase (b : Byte) (s : State) :
    ((payloadStep b s).phase = .idle ∧ s.cnt - 1#32 = 0#32) ∨
    ((payloadStep b s).phase = .payload ∧ s.cnt - 1#32 ≠ 0#32) :=
  State.closeIfPaid_phase _

end Sys2Proof.Machine
end

