-- ==== Sys2Proof/Laws/PerInstr.lean ====
section
/-! SUPPORT. Per instruction: the word the encoder writes is legal by the opcode table's own masks and matches (R76), which the encoder
does not use. -/

namespace Sys2Proof

theorem chunk_fits_row (t : Tag) (len : Length) :
    OpcodeRow.fits ⟨"CHUNK", 0x1ffffffff000000000000000000000000#129, 0x104000000000000000000000000000000#129⟩
      (encode (.chunk t len)) = true := by
  simp only [OpcodeRow.fits, encode, beq_iff_eq]
  apply BitVec.eq_of_getLsbD_eq
  intro i hi
  simp [commandItem, Item.field]
  interval_cases i <;> simp

theorem data_fits_row (b : Byte) :
    OpcodeRow.fits ⟨"DATA", 0x1ffffffffffffffffffffffffffffff00#129, 0x000000000000000000000000000000000#129⟩
      (encode (.data b)) = true := by
  simp only [OpcodeRow.fits, encode, beq_iff_eq]
  apply BitVec.eq_of_getLsbD_eq
  intro i hi
  simp [Item.field]
  interval_cases i <;> simp

end Sys2Proof

namespace Sys2Proof.Laws.EncodesLegal

/-- The encoder's word of the instruction matches a row of the opcode table. -/
def Statement (i : Instr) : Prop := (encode i).legal = true

theorem init : Statement .init := by unfold Statement; decide

theorem span : Statement .span := by unfold Statement; decide

theorem endSpan : Statement .endSpan := by unfold Statement; decide

theorem chunk (t : Tag) (len : Length) : Statement (.chunk t len) := by
  simp [Statement, Item.legal, opcodeRows, chunk_fits_row]

theorem abort : Statement .abort := by unfold Statement; decide

theorem data (b : Byte) : Statement (.data b) := by
  simp [Statement, Item.legal, opcodeRows, data_fits_row]

end Sys2Proof.Laws.EncodesLegal
end

