-- ==== Sys2Proof/Tests/Slice0.lean ====
section
/-! SUPPORT. Tests: ill-formed items refused, words written out from the spec's encodings, the phase matrix and the table of the spec, and
for each obligation with hypotheses a witness that meets them. Expected values are the spec's: 40_table_init.md R109, 95_test_vectors.md. -/

namespace Sys2Proof.Tests

open Sys2Proof.Machine

/-! ### Well-formed and ill-formed items -/

/-- Each check of WellFormed.lean refuses: reserved `OP`, non-zero `RSV`, non-zero operands of an operand-less command, padding of a
data item (vectors D12 to D21). -/
theorem test_illformed_refused :
    Item.legal 0x100000000000000000000000000000000#129 = false ∧ Item.legal 0x106000000000000000000000000000000#129 = false ∧
    Item.legal 0x1FF000000000000000000000000000000#129 = false ∧ Item.legal 0x101000000000000000000000000000001#129 = false ∧
    Item.legal 0x102000000000000010000000000000000#129 = false ∧ Item.legal 0x105000001000000000000000000000000#129 = false ∧
    Item.legal 0x10400000149454E440000000000000000#129 = false ∧ Item.legal 0x104800000000000000000000000000000#129 = false ∧
    Item.legal 0x000000000000000000000000000000105#129 = false ∧ Item.legal 0x080000000000000000000000000000000#129 = false := by
  decide

/-- The rows of the opcode table do not overlap (R77). -/
theorem test_rows_disjoint :
    opcodeRows.Pairwise (fun r q => (r.pattern ^^^ q.pattern) &&& r.mask &&& q.mask ≠ 0#129) := by decide

/-! ### Decoding (vectors D1 to D21) and encoding -/

theorem test_decode_init : decode 0x101000000000000000000000000000000#129 = some .init := by decide

theorem test_decode_span : decode 0x102000000000000000000000000000000#129 = some .span := by decide

theorem test_decode_end : decode 0x103000000000000000000000000000000#129 = some .endSpan := by decide

theorem test_decode_abort : decode 0x105000000000000000000000000000000#129 = some .abort := by decide

theorem test_decode_chunk :
    decode 0x10400000049484452000000000000000D#129 = some (.chunk ⟨0x49#8, 0x48#8, 0x44#8, 0x52#8⟩ 13#64) ∧
    decode 0x104000000494441540000000100000000#129 = some (.chunk ⟨0x49#8, 0x44#8, 0x41#8, 0x54#8⟩ 0x100000000#64) ∧
    decode 0x104000000FFFFFFFFFFFFFFFFFFFFFFFF#129 =
      some (.chunk ⟨0xFF#8, 0xFF#8, 0xFF#8, 0xFF#8⟩ 0xFFFFFFFFFFFFFFFF#64) := by decide

theorem test_decode_data :
    decode 0x000000000000000000000000000000049#129 = some (.data 0x49#8) ∧ decode 0#129 = some (.data 0x00#8) ∧
    decode 0x0000000000000000000000000000000FF#129 = some (.data 0xFF#8) := by decide

/-- D12 to D21. -/
theorem test_decode_illegal :
    [0x100000000000000000000000000000000#129, 0x106000000000000000000000000000000#129, 0x1FF000000000000000000000000000000#129,
     0x101000000000000000000000000000001#129, 0x102000000000000010000000000000000#129, 0x105000001000000000000000000000000#129,
     0x10400000149454E440000000000000000#129, 0x104800000000000000000000000000000#129, 0x000000000000000000000000000000105#129,
     0x080000000000000000000000000000000#129].map decode = List.replicate 10 none := by decide

theorem test_encode_chunk :
    encode (.chunk ⟨0x49#8, 0x48#8, 0x44#8, 0x52#8⟩ 13#64) = 0x10400000049484452000000000000000D#129 ∧
    encode (.data 0x49#8) = 0x000000000000000000000000000000049#129 ∧
    encode .abort = 0x105000000000000000000000000000000#129 := by decide

/-- The host's entry reads the same words. -/
theorem test_table_words :
    decodeTableWord 136 0x10400000049484452000000000000000D = some (.chunk ⟨0x49#8, 0x48#8, 0x44#8, 0x52#8⟩ 13#64) ∧
    decodeTableWord 129 0x101000000000000000000000000000000 = some .init ∧ decodeTableWord 136 0x49 = some (.data 0x49#8) ∧
    decodeTableWord 136 (2 ^ 129) = none := by decide

/-! ### Assembler lines (R81, R82, 95_test_vectors.md 2.8) -/

theorem test_asm_tags :
    parseLine "CHUNK 0x49484452, 0x0D".toList = some (.instr (.chunk ⟨0x49#8, 0x48#8, 0x44#8, 0x52#8⟩ 13#64)) ∧
    parseLine ['C', 'H', 'U', 'N', 'K', ' ', quoteChar, 'I', 'H', 'D', 'R', quoteChar, ',', ' ', '1', '3'] =
      some (.instr (.chunk ⟨0x49#8, 0x48#8, 0x44#8, 0x52#8⟩ 13#64)) := by decide +kernel

theorem test_asm_lines :
    parseLine "DATA 0x49 ; discarded in FAULT".toList = some (.instr (.data 0x49#8)) ∧ parseLine ".reset".toList = some .reset ∧
    parseLine "CHECKSUM".toList = some (.checksum []) ∧ parseLine "BYTES 78 9C  63".toList = some (.bytes [0x78#8, 0x9C#8, 0x63#8]) ∧
    parseLine ".expect STATUS = 0x00000001".toList = some .expect ∧ parseLine "DATA 256".toList = none := by decide +kernel

/-! ### The table (R109) -/

/-- Entries 0x00 to 0x1F. -/
def rows0 : List Word :=
  [0x00000000#32, 0x77073096#32, 0xEE0E612C#32, 0x990951BA#32, 0x076DC419#32, 0x706AF48F#32, 0xE963A535#32, 0x9E6495A3#32,
   0x0EDB8832#32, 0x79DCB8A4#32, 0xE0D5E91E#32, 0x97D2D988#32, 0x09B64C2B#32, 0x7EB17CBD#32, 0xE7B82D07#32, 0x90BF1D91#32,
   0x1DB71064#32, 0x6AB020F2#32, 0xF3B97148#32, 0x84BE41DE#32, 0x1ADAD47D#32, 0x6DDDE4EB#32, 0xF4D4B551#32, 0x83D385C7#32,
   0x136C9856#32, 0x646BA8C0#32, 0xFD62F97A#32, 0x8A65C9EC#32, 0x14015C4F#32, 0x63066CD9#32, 0xFA0F3D63#32, 0x8D080DF5#32]

/-- Entries 0x20 to 0x3F. -/
def rows1 : List Word :=
  [0x3B6E20C8#32, 0x4C69105E#32, 0xD56041E4#32, 0xA2677172#32, 0x3C03E4D1#32, 0x4B04D447#32, 0xD20D85FD#32, 0xA50AB56B#32,
   0x35B5A8FA#32, 0x42B2986C#32, 0xDBBBC9D6#32, 0xACBCF940#32, 0x32D86CE3#32, 0x45DF5C75#32, 0xDCD60DCF#32, 0xABD13D59#32,
   0x26D930AC#32, 0x51DE003A#32, 0xC8D75180#32, 0xBFD06116#32, 0x21B4F4B5#32, 0x56B3C423#32, 0xCFBA9599#32, 0xB8BDA50F#32,
   0x2802B89E#32, 0x5F058808#32, 0xC60CD9B2#32, 0xB10BE924#32, 0x2F6F7C87#32, 0x58684C11#32, 0xC1611DAB#32, 0xB6662D3D#32]

/-- Entries 0x40 to 0x5F. -/
def rows2 : List Word :=
  [0x76DC4190#32, 0x01DB7106#32, 0x98D220BC#32, 0xEFD5102A#32, 0x71B18589#32, 0x06B6B51F#32, 0x9FBFE4A5#32, 0xE8B8D433#32,
   0x7807C9A2#32, 0x0F00F934#32, 0x9609A88E#32, 0xE10E9818#32, 0x7F6A0DBB#32, 0x086D3D2D#32, 0x91646C97#32, 0xE6635C01#32,
   0x6B6B51F4#32, 0x1C6C6162#32, 0x856530D8#32, 0xF262004E#32, 0x6C0695ED#32, 0x1B01A57B#32, 0x8208F4C1#32, 0xF50FC457#32,
   0x65B0D9C6#32, 0x12B7E950#32, 0x8BBEB8EA#32, 0xFCB9887C#32, 0x62DD1DDF#32, 0x15DA2D49#32, 0x8CD37CF3#32, 0xFBD44C65#32]

/-- Entries 0x60 to 0x7F. -/
def rows3 : List Word :=
  [0x4DB26158#32, 0x3AB551CE#32, 0xA3BC0074#32, 0xD4BB30E2#32, 0x4ADFA541#32, 0x3DD895D7#32, 0xA4D1C46D#32, 0xD3D6F4FB#32,
   0x4369E96A#32, 0x346ED9FC#32, 0xAD678846#32, 0xDA60B8D0#32, 0x44042D73#32, 0x33031DE5#32, 0xAA0A4C5F#32, 0xDD0D7CC9#32,
   0x5005713C#32, 0x270241AA#32, 0xBE0B1010#32, 0xC90C2086#32, 0x5768B525#32, 0x206F85B3#32, 0xB966D409#32, 0xCE61E49F#32,
   0x5EDEF90E#32, 0x29D9C998#32, 0xB0D09822#32, 0xC7D7A8B4#32, 0x59B33D17#32, 0x2EB40D81#32, 0xB7BD5C3B#32, 0xC0BA6CAD#32]

/-- Entries 0x80 to 0x9F. -/
def rows4 : List Word :=
  [0xEDB88320#32, 0x9ABFB3B6#32, 0x03B6E20C#32, 0x74B1D29A#32, 0xEAD54739#32, 0x9DD277AF#32, 0x04DB2615#32, 0x73DC1683#32,
   0xE3630B12#32, 0x94643B84#32, 0x0D6D6A3E#32, 0x7A6A5AA8#32, 0xE40ECF0B#32, 0x9309FF9D#32, 0x0A00AE27#32, 0x7D079EB1#32,
   0xF00F9344#32, 0x8708A3D2#32, 0x1E01F268#32, 0x6906C2FE#32, 0xF762575D#32, 0x806567CB#32, 0x196C3671#32, 0x6E6B06E7#32,
   0xFED41B76#32, 0x89D32BE0#32, 0x10DA7A5A#32, 0x67DD4ACC#32, 0xF9B9DF6F#32, 0x8EBEEFF9#32, 0x17B7BE43#32, 0x60B08ED5#32]

/-- Entries 0xA0 to 0xBF. -/
def rows5 : List Word :=
  [0xD6D6A3E8#32, 0xA1D1937E#32, 0x38D8C2C4#32, 0x4FDFF252#32, 0xD1BB67F1#32, 0xA6BC5767#32, 0x3FB506DD#32, 0x48B2364B#32,
   0xD80D2BDA#32, 0xAF0A1B4C#32, 0x36034AF6#32, 0x41047A60#32, 0xDF60EFC3#32, 0xA867DF55#32, 0x316E8EEF#32, 0x4669BE79#32,
   0xCB61B38C#32, 0xBC66831A#32, 0x256FD2A0#32, 0x5268E236#32, 0xCC0C7795#32, 0xBB0B4703#32, 0x220216B9#32, 0x5505262F#32,
   0xC5BA3BBE#32, 0xB2BD0B28#32, 0x2BB45A92#32, 0x5CB36A04#32, 0xC2D7FFA7#32, 0xB5D0CF31#32, 0x2CD99E8B#32, 0x5BDEAE1D#32]

/-- Entries 0xC0 to 0xDF. -/
def rows6 : List Word :=
  [0x9B64C2B0#32, 0xEC63F226#32, 0x756AA39C#32, 0x026D930A#32, 0x9C0906A9#32, 0xEB0E363F#32, 0x72076785#32, 0x05005713#32,
   0x95BF4A82#32, 0xE2B87A14#32, 0x7BB12BAE#32, 0x0CB61B38#32, 0x92D28E9B#32, 0xE5D5BE0D#32, 0x7CDCEFB7#32, 0x0BDBDF21#32,
   0x86D3D2D4#32, 0xF1D4E242#32, 0x68DDB3F8#32, 0x1FDA836E#32, 0x81BE16CD#32, 0xF6B9265B#32, 0x6FB077E1#32, 0x18B74777#32,
   0x88085AE6#32, 0xFF0F6A70#32, 0x66063BCA#32, 0x11010B5C#32, 0x8F659EFF#32, 0xF862AE69#32, 0x616BFFD3#32, 0x166CCF45#32]

/-- Entries 0xE0 to 0xFF. -/
def rows7 : List Word :=
  [0xA00AE278#32, 0xD70DD2EE#32, 0x4E048354#32, 0x3903B3C2#32, 0xA7672661#32, 0xD06016F7#32, 0x4969474D#32, 0x3E6E77DB#32,
   0xAED16A4A#32, 0xD9D65ADC#32, 0x40DF0B66#32, 0x37D83BF0#32, 0xA9BCAE53#32, 0xDEBB9EC5#32, 0x47B2CF7F#32, 0x30B5FFE9#32,
   0xBDBDF21C#32, 0xCABAC28A#32, 0x53B39330#32, 0x24B4A3A6#32, 0xBAD03605#32, 0xCDD70693#32, 0x54DE5729#32, 0x23D967BF#32,
   0xB3667A2E#32, 0xC4614AB8#32, 0x5D681B02#32, 0x2A6F2B94#32, 0xB40BBE37#32, 0xC30C8EA1#32, 0x5A05DF1B#32, 0x2D02EF8D#32]

/-- All 256 values of R109. -/
theorem test_table_ref :
    (List.range 256).map (fun k => (tableRef (BitVec.ofNat 8 k)).toNat) =
      (rows0 ++ rows1 ++ rows2 ++ rows3 ++ rows4 ++ rows5 ++ rows6 ++ rows7).map BitVec.toNat := by decide +kernel

/-- The cells of the table as printed; entry 0 is 0 and so has no cell. -/
def printedTable : Memory :=
  ((rows0 ++ rows1 ++ rows2 ++ rows3 ++ rows4 ++ rows5 ++ rows6 ++ rows7).zipIdx.map fun p => (p.2, p.1)).drop 1

/-! ### Test states: the six start states of 95_test_vectors.md 2.9, and a fill -/

/-- A state with the given table, if it is valid, and registers, and nothing in `OUT`. -/
def mkWith (m : Memory) (tv : Bool) (ph : Phase) (e : Err) (crc cnt : Word) (inp : List Item) : State :=
  { table := if tv then m else [], tv := tv, crc := crc, cnt := cnt, idx := if tv then 255#8 else 0#8,
    phase := ph, err := e, inp := inp, out := [] }

/-- The same over the reference table. -/
def mk : Bool → Phase → Err → Word → Word → List Item → State := mkWith referenceTable

/-- I0. -/
def i0 (l : List Item) : State := mk false .idle .none 7#32 9#32 l

/-- I1. -/
def i1 (l : List Item) : State := mk true .idle .none 7#32 9#32 l

/-- S. -/
def sp (l : List Item) : State := mk true .span .none 0x22FDE946#32 9#32 l

/-- P2. -/
def p2 (l : List Item) : State := mk true .payload .none 0xB127C379#32 2#32 l

/-- P1. -/
def p1 (l : List Item) : State := mk true .payload .none 0x13DDBF95#32 1#32 l

/-- F. -/
def ft (l : List Item) : State := mk true .fault .sequenceError 7#32 9#32 l

/-- In phase `INIT` at the first entry. -/
def fl (l : List Item) : State := mk false .init .none 7#32 9#32 l

/-- The outcome is a next state that passes `f`. -/
def nextIs (o : Host.Outcome State Fault Refusal) (f : State → Bool) : Bool :=
  match o with
  | .next t => f t
  | .fault _ => false
  | .refused _ => false

/-- One cell of the matrix: one step on `p` with one more item behind it, over the table as R109 prints it. -/
def cell (start : List Item → State) (p : Item) (gain : List OutItem) (ph : Phase) (status crc cnt : Word) : Bool :=
  nextIs (step { start [p, 3#129] with table := if (start []).tv then printedTable else [] }) fun t =>
    decide (t.inp = [3#129] ∧ t.out = gain ∧ t.phase = ph ∧ t.status = status ∧ t.crc = crc ∧ t.cnt = cnt)

/-- `"IEND"` with no payload, `"tEST"` with 2 bytes, `"IDAT"` with a length that does not fit. -/
def iend0 : Item := 0x10400000049454E440000000000000000#129

def test2 : Item := 0x104000000744553540000000000000002#129

def idatBig : Item := 0x104000000494441540000000100000000#129

/-- `OP = 06`: illegal. -/
def op06 : Item := 0x106000000000000000000000000000000#129

/-! ### The phase matrix (R162, 95_test_vectors.md 2.9), one list for each start state; `u` is the value the state holds -/

/-- M1 to M9. -/
def matrixI0 : List Bool :=
  [ cell i0 0x101000000000000000000000000000000#129 [] .init 0x00000002#32 7#32 9#32,
    cell i0 0x102000000000000000000000000000000#129 [] .fault 0x00000028#32 7#32 9#32,
    cell i0 0x62#129 [] .fault 0x00000048#32 7#32 9#32,
    cell i0 0x103000000000000000000000000000000#129 [] .fault 0x00000048#32 7#32 9#32,
    cell i0 iend0 [] .fault 0x00000028#32 7#32 9#32,
    cell i0 test2 [] .fault 0x00000028#32 7#32 9#32,
    cell i0 idatBig [] .fault 0x00000028#32 7#32 9#32,
    cell i0 0x105000000000000000000000000000000#129 [] .idle 0x00000000#32 7#32 9#32,
    cell i0 op06 [] .fault 0x00000038#32 7#32 9#32 ]

/-- M10 to M18. -/
def matrixI1 : List Bool :=
  [ cell i1 0x101000000000000000000000000000000#129 [] .idle 0x00000001#32 7#32 9#32,
    cell i1 0x102000000000000000000000000000000#129 [] .span 0x00000005#32 0xFFFFFFFF#32 9#32,
    cell i1 0x62#129 [] .fault 0x00000049#32 7#32 9#32,
    cell i1 0x103000000000000000000000000000000#129 [] .fault 0x00000049#32 7#32 9#32,
    cell i1 iend0 [.byte 0x00#8, .byte 0x00#8, .byte 0x00#8, .byte 0x00#8, .byte 0x49#8, .byte 0x45#8, .byte 0x4E#8, .byte 0x44#8, .byte 0xAE#8, .byte 0x42#8, .byte 0x60#8, .byte 0x82#8] .idle 0x00000001#32 0x51BD9F7D#32 0x00000000#32,
    cell i1 test2 [.byte 0x00#8, .byte 0x00#8, .byte 0x00#8, .byte 0x02#8, .byte 0x74#8, .byte 0x45#8, .byte 0x53#8, .byte 0x54#8] .payload 0x00000007#32 0xB127C379#32 0x00000002#32,
    cell i1 idatBig [] .fault 0x00000019#32 7#32 9#32,
    cell i1 0x105000000000000000000000000000000#129 [] .idle 0x00000001#32 7#32 9#32,
    cell i1 op06 [] .fault 0x00000039#32 7#32 9#32 ]

/-- M19 to M27. -/
def matrixS : List Bool :=
  [ cell sp 0x101000000000000000000000000000000#129 [] .fault 0x00000049#32 0x22FDE946#32 9#32,
    cell sp 0x102000000000000000000000000000000#129 [] .fault 0x00000049#32 0x22FDE946#32 9#32,
    cell sp 0x62#129 [] .span 0x00000005#32 0x3C211938#32 9#32,
    cell sp 0x103000000000000000000000000000000#129 [.word 0xDD0216B9#32] .idle 0x00000001#32 0x22FDE946#32 9#32,
    cell sp iend0 [] .fault 0x00000049#32 0x22FDE946#32 9#32,
    cell sp test2 [] .fault 0x00000049#32 0x22FDE946#32 9#32,
    cell sp idatBig [] .fault 0x00000049#32 0x22FDE946#32 9#32,
    cell sp 0x105000000000000000000000000000000#129 [] .idle 0x00000001#32 0x22FDE946#32 9#32,
    cell sp op06 [] .fault 0x00000039#32 0x22FDE946#32 9#32 ]

/-- M28 to M36. -/
def matrixP2 : List Bool :=
  [ cell p2 0x101000000000000000000000000000000#129 [] .fault 0x00000049#32 0xB127C379#32 0x00000002#32,
    cell p2 0x102000000000000000000000000000000#129 [] .fault 0x00000049#32 0xB127C379#32 0x00000002#32,
    cell p2 0x62#129 [.byte 0x62#8] .payload 0x00000007#32 0x8AD4EE2F#32 0x00000001#32,
    cell p2 0x103000000000000000000000000000000#129 [] .fault 0x00000049#32 0xB127C379#32 0x00000002#32,
    cell p2 iend0 [] .fault 0x00000049#32 0xB127C379#32 0x00000002#32,
    cell p2 test2 [] .fault 0x00000049#32 0xB127C379#32 0x00000002#32,
    cell p2 idatBig [] .fault 0x00000049#32 0xB127C379#32 0x00000002#32,
    cell p2 0x105000000000000000000000000000000#129 [] .idle 0x00000001#32 0xB127C379#32 0x00000002#32,
    cell p2 op06 [] .fault 0x00000039#32 0xB127C379#32 0x00000002#32 ]

/-- M37 to M45. -/
def matrixP1 : List Bool :=
  [ cell p1 0x101000000000000000000000000000000#129 [] .fault 0x00000049#32 0x13DDBF95#32 0x00000001#32,
    cell p1 0x102000000000000000000000000000000#129 [] .fault 0x00000049#32 0x13DDBF95#32 0x00000001#32,
    cell p1 0x62#129 [.byte 0x62#8, .byte 0xDC#8, .byte 0x35#8, .byte 0x45#8, .byte 0xFF#8] .idle 0x00000001#32 0x23CABA00#32 0x00000000#32,
    cell p1 0x103000000000000000000000000000000#129 [] .fault 0x00000049#32 0x13DDBF95#32 0x00000001#32,
    cell p1 iend0 [] .fault 0x00000049#32 0x13DDBF95#32 0x00000001#32,
    cell p1 test2 [] .fault 0x00000049#32 0x13DDBF95#32 0x00000001#32,
    cell p1 idatBig [] .fault 0x00000049#32 0x13DDBF95#32 0x00000001#32,
    cell p1 0x105000000000000000000000000000000#129 [] .idle 0x00000001#32 0x13DDBF95#32 0x00000001#32,
    cell p1 op06 [] .fault 0x00000039#32 0x13DDBF95#32 0x00000001#32 ]

/-- M46 to M54. -/
def matrixF : List Bool :=
  [ cell ft 0x101000000000000000000000000000000#129 [] .fault 0x00000049#32 7#32 9#32,
    cell ft 0x102000000000000000000000000000000#129 [] .fault 0x00000049#32 7#32 9#32,
    cell ft 0x62#129 [] .fault 0x00000049#32 7#32 9#32,
    cell ft 0x103000000000000000000000000000000#129 [] .fault 0x00000049#32 7#32 9#32,
    cell ft iend0 [] .fault 0x00000049#32 7#32 9#32,
    cell ft test2 [] .fault 0x00000049#32 7#32 9#32,
    cell ft idatBig [] .fault 0x00000049#32 7#32 9#32,
    cell ft 0x105000000000000000000000000000000#129 [] .idle 0x00000001#32 7#32 9#32,
    cell ft op06 [] .fault 0x00000049#32 7#32 9#32 ]

/-! ### Single steps beside the matrix -/

/-- F2, F4: the fill writes one entry and moves on; F6, F7: at the last entry it ends, an item waiting. -/
theorem test_fill_step :
    nextIs (step (fl [])) (fun t => decide (t.tableRead 0#8 = 0#32 ∧ t.idx = 1#8 ∧ t.phase = .init ∧ t.tv = false)) = true ∧
    nextIs (step { fl [] with idx := 0x80#8 })
      (fun t => decide (t.tableRead 0x80#8 = 0xEDB88320#32 ∧ t.tableRead 0x7F#8 = 0#32 ∧ t.idx = 0x81#8)) = true  ∧
    nextIs (step { fl [0x102000000000000000000000000000000#129] with idx := 0xFF#8 })
      (fun t => decide (t.tableRead 0xFF#8 = 0x2D02EF8D#32 ∧ t.idx = 0xFF#8 ∧ t.tv = true ∧ t.status = 1#32 ∧
        t.inp.length = 1)) = true := by decide +kernel

/-- C6: the largest length is accepted; C9: the largest operand is not. X1, X5, X8: an illegal item in the reset state and in an open
chunk, and an `ABORT` word that is not legal in phase `FAULT`. -/
def furtherCells : List Bool :=
  [ cell i1 0x104000000FFFFFFFF00000000FFFFFFFF#129 (List.replicate 8 (.byte 0xFF#8)) .payload 7#32 0#32 0xFFFFFFFF#32,
    cell i1 0x10400000049444154FFFFFFFFFFFFFFFF#129 [] .fault 0x19#32 7#32 9#32,
    cell i0 0x104000001494441540000000100000000#129 [] .fault 0x38#32 7#32 9#32,
    cell p2 0x103000000000000000000000000000001#129 [] .fault 0x39#32 0xB127C379#32 2#32,
    cell ft 0x105000000000000000000000000000001#129 [] .fault 0x49#32 7#32 9#32 ]

/-- Every cell of the matrix and the further ones, each one step. -/
theorem test_matrix :
    (matrixI0 ++ matrixI1 ++ matrixS ++ matrixP2 ++ matrixP1 ++ matrixF ++ furtherCells).all id = true := by decide +kernel

/-- The word the host places is the next one run, after reset and in phase `INIT`. -/
theorem test_withFetchWord :
    nextIs (step (State.reset.withFetchWord 136 0x101000000000000000000000000000000))
      (fun t => decide (t.phase = .init ∧ t.inp = [])) = true ∧
    nextIs (step ((fl []).withFetchWord 136 0x105000000000000000000000000000000))
      (fun t => decide (t.phase = .idle ∧ t.err = .none ∧ t.inp = [])) = true := by decide +kernel

/-- V8, V13: "123456789" and four bytes 0xFF. -/
theorem test_crc32 :
    crc32 [0x31#8, 0x32#8, 0x33#8, 0x34#8, 0x35#8, 0x36#8, 0x37#8, 0x38#8, 0x39#8] = 0xCBF43926#32 ∧
    crc32 [0xFF#8, 0xFF#8, 0xFF#8, 0xFF#8] = 0xFFFFFFFF#32 ∧
    chunkBytes ⟨0x74#8, 0x45#8, 0x53#8, 0x54#8⟩ [0x61#8, 0x62#8, 0x63#8] =
      [0#8, 0#8, 0#8, 3#8, 0x74#8, 0x45#8, 0x53#8, 0x54#8, 0x61#8, 0x62#8, 0x63#8, 0x2B#8, 0x67#8, 0x05#8, 0xA7#8] := by
  decide +kernel

/-- S16, S17, S15: the host's sizes for a 2 by 2 image, and a width of zero. -/
theorem test_host_sizes :
    scanlineBytes 2 2 = 14 ∧ compressBound 14 = 26 ∧ imageProgram (fun _ _ => true) 0 5 [] none = ([], some .invalidDimensions) ∧
    ihdrPayload 2#32 2#32 = [0#8, 0#8, 0#8, 2#8, 0#8, 0#8, 0#8, 2#8, 8#8, 2#8, 0#8, 0#8, 0#8] :=
  ⟨by decide, by decide, rfl, by decide⟩

/-- R186: an error after 3 instructions, inside the IHDR chunk, is followed by ABORT; after 14, between two chunks, by nothing. -/
theorem test_host_stop :
    stoppedProgram (pngOps 2#32 2#32 []) 3 = [.chunk tagIHDR 13#64, .data 0#8, .data 0#8, .abort] ∧
    stoppedProgram (pngOps 2#32 2#32 []) 14 = (opsProgram (pngOps 2#32 2#32 [])).take 14 ∧
    imageResult (some .compressionFailure) (i1 []) (i1 []) = .hostError .compressionFailure ∧
    imageResult none (i1 []) (ft []) = .blockFault .sequenceError := ⟨by decide, by decide, rfl, rfl⟩

/-- Packed output items (95_test_vectors.md 2.8). -/
theorem test_packOut :
    packOut (.byte 0x49#8) = 0x000000049#33 ∧ packOut (.word 0xAE426082#32) = 0x1AE426082#33 ∧
    packOut (.word 0#32) = 0x100000000#33 := by decide

/-! ### Witnesses: for each obligation with hypotheses, states and operands that meet them -/

/-- The invariant of every state of this file whose table is valid. -/
theorem inv_valid (ph : Phase) (e : Err) (crc cnt : Word) (l : List Item) (h1 : ph = .fault ↔ e ≠ .none) (h2 : ph ≠ .init)
    (h3 : ph = .payload → cnt ≠ 0#32) (h4 : e ≠ .tableNotReady) : Inv (mk true ph e crc cnt l) where
  tableWf := referenceTable_wf
  faultIff := h1
  openValid := fun _ => rfl
  fillNotValid := fun h => absurd h h2
  fillDone := fun h => absurd h h2
  validTable := fun _ n => referenceTable_read n
  owes := h3
  tooLargeValid := fun _ => rfl
  notReadyInvalid := fun h => absurd h h4

theorem inv_i1 (l : List Item) : Inv (i1 l) := inv_valid _ _ _ _ l (by decide) (by decide) (by decide) (by decide)

theorem inv_sp (l : List Item) : Inv (sp l) := inv_valid _ _ _ _ l (by decide) (by decide) (by decide) (by decide)

theorem inv_p2 (l : List Item) : Inv (p2 l) := inv_valid _ _ _ _ l (by decide) (by decide) (by decide) (by decide)

theorem inv_p1 (l : List Item) : Inv (p1 l) := inv_valid _ _ _ _ l (by decide) (by decide) (by decide) (by decide)

theorem inv_ft (l : List Item) : Inv (ft l) := inv_valid _ _ _ _ l (by decide) (by decide) (by decide) (by decide)

/-- In phase `INIT` with the first entry, which is 0, done. -/
theorem inv_fl (l : List Item) : Inv { fl l with idx := 1#8 } where
  tableWf := rfl
  faultIff := by simp [fl, mk, mkWith]
  openValid := by simp [fl, mk, mkWith]
  fillNotValid := fun _ => rfl
  fillDone := by
    intro _ n hn
    have : n = 0#8 := by simpa using hn
    subst this
    rfl
  validTable := nofun
  owes := nofun
  tooLargeValid := nofun
  notReadyInvalid := fun _ => rfl

/-- In phase `INIT` at the last entry. -/
theorem inv_flLast (l : List Item) : Inv { fl l with idx := 255#8, table := referenceTable } where
  tableWf := referenceTable_wf
  faultIff := by simp [fl, mk, mkWith]
  openValid := by simp [fl, mk, mkWith]
  fillNotValid := fun _ => rfl
  fillDone := fun _ n _ => referenceTable_read n
  validTable := fun _ n => referenceTable_read n
  owes := nofun
  tooLargeValid := nofun
  notReadyInvalid := fun _ => rfl

theorem test_witness_DecodedItemIsItsEncoding :
    decode 0x104000000FFFFFFFFFFFFFFFFFFFFFFFF#129 =
      some (.chunk ⟨0xFF#8, 0xFF#8, 0xFF#8, 0xFF#8⟩ 0xFFFFFFFFFFFFFFFF#64) ∧
    decode 0x0000000000000000000000000000000FF#129 = some (.data 0xFF#8) := by decide

/-- A legal word of each form, one with a non-zero `RSV`, one with a non-zero operand field. -/
theorem test_witness_LegalCommandWordsListed :
    [0x101000000000000000000000000000000#129, 0x102000000000000000000000000000000#129, 0x103000000000000000000000000000000#129,
     0x105000000000000000000000000000000#129, 0x104000000FFFFFFFFFFFFFFFFFFFFFFFF#129, 0x104800000000000000000000000000000#129,
     0x105000000000000000000000000000001#129].map Item.kind = List.replicate 7 true ∧
    CommandWord.rsv 0x04800000000000000000000000000000#128 ≠ 0#24 ∧
    CommandWord.op 0x05000000000000000000000000000001#128 = 0x05#8 ∧
    CommandWord.operands 0x05000000000000000000000000000001#128 ≠ 0#96 := by decide

theorem test_witness_DecoderAgreesWithOpcodeTable : ∀ r ∈ opcodeRows, r.fits r.pattern = true := by decide

theorem test_witness_PackedOutputItems : packOut (.word 0x49#32) = packOut (.word 0x49#32) ∧
    packOut (.byte 0x49#8) ≠ packOut (.word 0x49#32) := by decide

theorem test_witness_PseudoInstructionExpansions :
    AsmLine.buildChunk ⟨0x74#8, 0x45#8, 0x53#8, 0x54#8⟩ [0x61#8, 0x62#8, 0x63#8] ≠ .reset ∧ AsmLine.checksum [] ≠ .reset := by decide

/-- Two different tables, and events of each kind with a reset in a fill. -/
theorem test_witness_ResetGarbageIsNeverSeen :
    Memory.wf [(0, 5#32), (255, 6#32)] = true ∧ Memory.wf [] = true ∧
    [Event.append 0x101000000000000000000000000000000#129, .block, .block, .reset ⟨[(7, 9#32)], 1#32, 2#32, 3#8⟩, .block].all
      eventCanonical = true := by decide

theorem test_witness_InstancesAreIndependent :
    actAt [State.reset, State.reset] 1 (.append 3#129) = .next [State.reset, State.reset.hostAppend 3#129] ∧
    [State.reset, State.reset][1]? = some State.reset ∧ actAt [State.reset] 5 .block = .next [State.reset] := ⟨rfl, rfl, rfl⟩

/-- A legal item in each phase but `INIT`. -/
theorem test_witness_StepRunsTheDecodedInstruction :
    (∀ f ∈ [i0, i1, sp, p2, p1, ft], ∀ l : List Item, (f l).phase ≠ .init ∧ (f l).inp = l) ∧ decode iend0 ≠ none ∧
    decode 0x62#129 = some (.data 0x62#8) := by
  refine ⟨?_, by decide, by decide⟩
  simp [i0, i1, sp, p2, p1, ft, mk, mkWith]

theorem test_witness_IllegalItemFaults :
    (i0 [op06]).phase = .idle ∧ (sp [op06]).phase = .span ∧ (p2 [op06]).phase = .payload ∧ (p2 [op06]).inp = op06 :: [] ∧
    decode op06 = none := by decide +kernel

/-- Each clause: an illegal item, a legal one, `ABORT`, and a step and an event that leave the phase. -/
theorem test_witness_FaultPhaseDiscards :
    (∀ l, (ft l).phase = .fault ∧ (ft l).inp = l) ∧ decode op06 ≠ some .abort ∧ decode iend0 ≠ some .abort ∧
    decode 0x105000000000000000000000000000001#129 ≠ some .abort ∧
    nextIs (step (ft [0x105000000000000000000000000000000#129])) (fun t => decide (t.phase ≠ .fault)) = true ∧
    nextIs (act (.reset ResetGarbage.zero) (ft [])) (fun t => decide (t.phase ≠ .fault)) = true :=
  ⟨fun _ => ⟨rfl, rfl⟩, by decide +kernel⟩

theorem test_witness_WaitingKeepsTheState : (p2 []).phase ≠ .init ∧ (p2 []).inp = [] := ⟨nofun, rfl⟩

/-- A step in phase `INIT` and one outside, for the statements about every step: EachStepConsumesTheHead, OutputOnlyGrows,
PhaseTransitions. -/
theorem test_witness_steps :
    (∃ t, step (fl [iend0]) = .next t) ∧ (∃ t, step (i1 [test2]) = .next t) ∧ (∃ t, step (sp [0x62#129]) = .next t) ∧
    (∃ t, step (p1 [0x62#129]) = .next t) ∧ (∃ t, step (ft [op06]) = .next t) ∧
    nextIs (step { fl [] with idx := 255#8 }) (fun t => decide (t.tv ≠ false)) = true :=
  ⟨⟨_, rfl⟩, ⟨_, rfl⟩, ⟨_, rfl⟩, ⟨_, rfl⟩, ⟨_, rfl⟩, by decide +kernel⟩

theorem test_witness_MeaningsStopOnlyDuringFill : (fl []).phase = .init ∧ (ft []).phase ≠ .init := ⟨rfl, nofun⟩

/-- At the first, at the last but one and at the last entry. -/
theorem test_witness_FillStepWritesOneEntry :
    ∀ i ∈ [0#8, 254#8, 255#8], Memory.wf { fl [] with idx := i }.table = true ∧ { fl [] with idx := i }.phase = .init :=
  fun _ _ => ⟨rfl, rfl⟩

theorem test_witness_FillEndsAfter256Steps :
    Memory.wf { fl [] with table := [(3, 5#32)] }.table = true ∧ { fl [] with table := [(3, 5#32)] }.phase = .init ∧
    { fl [] with table := [(3, 5#32)] }.idx = 0#8 := by decide

theorem test_witness_FillEqualsOneStepFill :
    Memory.wf (i0 [0x101000000000000000000000000000000#129, iend0]).table = true ∧
    (i0 [0x101000000000000000000000000000000#129, iend0]).phase = .idle ∧
    (i0 [0x101000000000000000000000000000000#129, iend0]).tv = false ∧
    (i0 [0x101000000000000000000000000000000#129, iend0]).inp = 0x101000000000000000000000000000000#129 :: [iend0] ∧
    decode 0x101000000000000000000000000000000#129 = some .init := by decide

/-- The phases and the `TV` of every clause of InitMeaning, SpanMeaning, EndMeaning and AbortMeaning. -/
theorem test_witness_phases :
    ((i0 []).phase = .idle ∧ (i0 []).tv = false) ∧ ((i1 []).phase = .idle ∧ (i1 []).tv = true) ∧ (sp []).phase = .span ∧
    (p2 []).phase = .payload ∧ (ft []).phase = .fault ∧ (ft []).phase ≠ .init :=
  ⟨⟨rfl, rfl⟩, ⟨rfl, rfl⟩, rfl, rfl, rfl, nofun⟩

/-- The clauses of DataMeaning: in `SPAN`; more than one byte owed, at 2 and at the largest count; one byte owed. -/
theorem test_witness_DataMeaning :
    (sp []).phase = .span ∧ ((p2 []).phase = .payload ∧ 1 < (p2 []).cnt.toNat) ∧
    ({ p2 [] with cnt := 0xFFFFFFFF#32 }.phase = .payload ∧ 1 < { p2 [] with cnt := 0xFFFFFFFF#32 }.cnt.toNat) ∧
    ((p1 []).phase = .payload ∧ (p1 []).cnt = 1#32) ∧ (i0 []).phase = .idle ∧ (ft []).phase = .fault := by decide +kernel

/-- The clauses of ChunkMeaning on the length, at the values where they meet. -/
theorem test_witness_ChunkMeaning :
    (i1 []).phase = .idle ∧ (i1 []).tv = true ∧ (0#64).toNat = 0 ∧ (0 < (1#64).toNat ∧ (1#64).toNat ≤ 0xFFFFFFFF) ∧
    (0 < (0xFFFFFFFF#64).toNat ∧ (0xFFFFFFFF#64).toNat ≤ 0xFFFFFFFF) ∧ 0xFFFFFFFF < (0x100000000#64).toNat ∧
    0xFFFFFFFF < (0xFFFFFFFFFFFFFFFF#64).toNat ∧ (i0 []).tv = false := by decide +kernel

theorem test_witness_AbortMeaning :
    Item.kind 0x105000001000000000000000000000000#129 = true ∧ CommandWord.op 0x05000001000000000000000000000000#128 = 0x05#8 ∧
    CommandWord.rsv 0x05000001000000000000000000000000#128 ≠ 0#24 ∧
    CommandWord.operands 0x05000000000000000000000000000001#128 ≠ 0#96 := by decide

/-- SequenceErrorsExactly, TableNotReadyExactly and PayloadTooLargeExactly: `ERR` is another, and the fault is raised. -/
theorem test_witness_errors :
    (i0 []).err = .none ∧
    exec .endSpan (i0 []) = .next { i0 [] with err := .sequenceError, phase := .fault } ∧
    exec .span (i0 []) = .next { i0 [] with err := .tableNotReady, phase := .fault } ∧
    exec (.chunk ⟨1#8, 2#8, 3#8, 4#8⟩ 0x100000000#64) (i1 []) =
      .next { i1 [] with err := .payloadTooLarge, phase := .fault } := ⟨rfl, rfl, rfl, rfl⟩

/-- An item that reports a fault and one that reports none, in each of the three phases. -/
theorem test_witness_FaultPriorityAndPrecision :
    (∃ t, step (i0 [idatBig]) = .next t) ∧ reportedFault (i0 []).phase (i0 []).tv (decode idatBig) = .tableNotReady ∧
    (∃ t, step (i1 [iend0]) = .next t) ∧ reportedFault (i1 []).phase (i1 []).tv (decode iend0) = .none ∧
    (∃ t, step (sp [idatBig]) = .next t) ∧ reportedFault (sp []).phase (sp []).tv (decode idatBig) = .sequenceError ∧
    (∃ t, step (p1 [0x62#129]) = .next t) ∧ reportedFault (p1 []).phase (p1 []).tv (decode 0x62#129) = .none ∧
    (i0 []).phase = .idle ∧ (sp []).phase = .span ∧ (p1 []).phase = .payload ∧
    (∀ f ∈ [i0, i1, sp, p1], ∀ p : Item, (f [p]).inp = p :: []) := by
  refine ⟨⟨_, rfl⟩, by decide, ⟨_, rfl⟩, by decide, ⟨_, rfl⟩, by decide, ⟨_, rfl⟩, by decide, rfl, rfl, rfl, ?_⟩
  simp [i0, i1, sp, p1, mk, mkWith]

theorem test_witness_FirstFaultIsKept :
    (ft [op06, iend0]).phase = .fault ∧ (∀ p ∈ [op06, iend0], decode p ≠ some .abort) ∧
    (∀ e ∈ [Event.append iend0, .block, .block, .block], isReset e = false ∧ ∀ p, e = .append p → decode p ≠ some .abort) ∧
    nextIs (actAll [Event.append iend0, .block, .block, .block] (ft [op06, iend0])) (fun _ => true) = true := by
  have h1 : decode op06 ≠ some .abort := by decide
  have h2 : decode iend0 ≠ some .abort := by decide
  refine ⟨rfl, by simp [h1, h2], ?_, by decide +kernel⟩
  simp [isReset, h2]

/-- InstructionsLeaveTableAndInput, FrameOfEachInstruction: each instruction with its own effect. -/
theorem test_witness_frames :
    (∃ t, exec .init (i0 []) = .next t) ∧ (∃ t, exec .span (i1 []) = .next t) ∧ (∃ t, exec .endSpan (sp []) = .next t) ∧
    (∃ t, exec .abort (ft []) = .next t) ∧ (∃ t, exec (.chunk ⟨1#8, 2#8, 3#8, 4#8⟩ 2#64) (i1 []) = .next t) ∧
    (∃ t, exec (.data 5#8) (p1 []) = .next t) ∧ (∃ t, exec (.data 5#8) (sp []) = .next t) ∧ (sp []).phase ≠ .payload :=
  ⟨⟨_, rfl⟩, ⟨_, rfl⟩, ⟨_, rfl⟩, ⟨_, rfl⟩, ⟨_, rfl⟩, ⟨_, rfl⟩, ⟨_, rfl⟩, nofun⟩

theorem test_witness_StatusValuesReachable : Inv (p2 []) ∧ Inv (ft []) ∧ Inv State.reset := by
  refine ⟨inv_p2 _, inv_ft _, ?_⟩
  constructor <;> first | rfl | decide

theorem test_witness_InvariantAtReset : Memory.wf (ResetGarbage.mk [(3, 5#32)] 1#32 2#32 3#8).table = true := by decide

/-- In every phase, a state that meets the invariant and makes a step. -/
theorem test_witness_StepKeepsInvariant :
    (Inv { fl [] with idx := 1#8 } ∧ ∃ t, step { fl [] with idx := 1#8 } = .next t) ∧
    (Inv { fl [] with idx := 255#8, table := referenceTable } ∧
      ∃ t, step { fl [] with idx := 255#8, table := referenceTable } = .next t) ∧
    (Inv (i1 [test2]) ∧ ∃ t, step (i1 [test2]) = .next t) ∧ (Inv (sp [op06]) ∧ ∃ t, step (sp [op06]) = .next t) ∧
    (Inv (p1 [0x62#129]) ∧ ∃ t, step (p1 [0x62#129]) = .next t) ∧ (Inv (ft [iend0]) ∧ ∃ t, step (ft [iend0]) = .next t) :=
  ⟨⟨inv_fl _, _, rfl⟩, ⟨inv_flLast _, _, rfl⟩, ⟨inv_i1 _, _, rfl⟩, ⟨inv_sp _, _, rfl⟩, ⟨inv_p1 _, _, rfl⟩, ⟨inv_ft _, _, rfl⟩⟩

theorem test_witness_EventsKeepInvariant :
    Inv (p1 []) ∧ [Event.append 0x62#129, .block, .reset ResetGarbage.zero].all eventCanonical = true ∧
    ∃ t, actAll [Event.append 0x62#129, .block, .reset ResetGarbage.zero] (p1 []) = .next t :=
  ⟨inv_p1 _, by decide, _, rfl⟩

theorem test_witness_ValidTableIsImmutable :
    Inv (p1 []) ∧ (p1 []).tv = true ∧ [Event.append 0x62#129, .block, .block].all (fun e => !isReset e) = true ∧
    ∃ t, actAll [Event.append 0x62#129, .block, .block] (p1 []) = .next t := ⟨inv_p1 _, rfl, by decide, _, rfl⟩

theorem test_witness_ReferenceTableChecks : tableRef 5#8 = tableRef 5#8 ∧ tableRef 5#8 ≠ tableRef 6#8 := by decide

theorem test_witness_LookupStepEqualsReducer : ∀ n : Byte, (i1 []).tableRead n = tableRef n := referenceTable_read

/-- A payload of one byte and none; an empty IDAT payload. -/
theorem test_witness_ChunkLayoutAndSize : [0x61#8].length ≤ 0xFFFFFFFF ∧ ([] : List Byte).length ≤ 0xFFFFFFFF := by decide

/-- Also the hypotheses of PngFileShape: the 16-byte payload of program P4. -/
theorem test_witness_PngFileShape : (List.replicate 16 (0#8 : Byte)).length ≤ 0xFFFFFFFF := by decide

/-- Two bytes with an item behind, and the empty span. -/
theorem test_witness_ChecksumContract :
    ∀ l ∈ [[0x61#8, 0x62#8], []], ∀ rest ∈ [[op06], []],
      Inv (i1 (itemsOf (checksumProgram l) ++ rest)) ∧ (i1 (itemsOf (checksumProgram l) ++ rest)).phase = .idle ∧
      (i1 (itemsOf (checksumProgram l) ++ rest)).tv = true ∧
      (i1 (itemsOf (checksumProgram l) ++ rest)).inp = itemsOf (checksumProgram l) ++ rest :=
  fun _ _ _ _ => ⟨inv_i1 _, rfl, rfl, rfl⟩

/-- A payload of two bytes with an item behind, and none. -/
theorem test_witness_ChunkContract :
    ∀ l ∈ [[0x61#8, 0x62#8], []], ∀ rest ∈ [[op06], []],
      Inv (i1 (itemsOf (buildChunkProgram tagIDAT l) ++ rest)) ∧ (i1 (itemsOf (buildChunkProgram tagIDAT l) ++ rest)).phase = .idle ∧
      (i1 (itemsOf (buildChunkProgram tagIDAT l) ++ rest)).tv = true ∧ l.length ≤ 0xFFFFFFFF ∧
      (i1 (itemsOf (buildChunkProgram tagIDAT l) ++ rest)).inp = itemsOf (buildChunkProgram tagIDAT l) ++ rest := by
  intro l hl rest _
  refine ⟨inv_i1 _, rfl, rfl, ?_, rfl⟩
  simp at hl
  rcases hl with rfl | rfl <;> simp

theorem test_witness_DutifulHostsRunEndsWell :
    Memory.wf (ResetGarbage.mk [(3, 5#32)] 1#32 2#32 3#8).table = true ∧
    [HostOp.checksum [], .buildChunk ⟨1#8, 2#8, 3#8, 4#8⟩ [5#8], .buildChunk ⟨1#8, 2#8, 3#8, 4#8⟩ []].all opAdmissible = true := by
  decide

/-- Each of the five grounds, and dimensions at both ends of their range that are accepted. -/
theorem test_witness_InvalidDimensionsSendNothing :
    (0 = 0 ∨ (5 : Nat) = 0) ∧ (fun w _ : Nat => decide (w ≤ 100)) 101 5 = false ∧ 2 ^ 32 ≤ 2 ^ 32 ∧
    (0 < 1 ∧ 1 < 2 ^ 32 ∧ 0 < 2 ^ 32 - 1 ∧ 2 ^ 32 - 1 < 2 ^ 32 ∧ (fun _ _ : Nat => true) 1 (2 ^ 32 - 1) = true) := by decide

/-- Given up inside a chunk and between two chunks. -/
theorem test_witness_FailedImageLeavesTheNextWhole :
    let limits : Nat → Nat → Bool := fun _ _ => true
    ∀ k ∈ [3, 14],
      let failed := imageProgram limits 2 2 [0x61#8] (some (.compressionFailure, k))
      let next := imageProgram limits 3 3 [0x62#8] none
      let s := i1 (itemsOf failed.1 ++ (itemsOf next.1 ++ [op06]))
      Inv s ∧ s.phase = .idle ∧ s.tv = true ∧ [0x61#8].length ≤ 0xFFFFFFFF ∧ [0x62#8].length ≤ 0xFFFFFFFF ∧
      dimensionsValid limits 2 2 = true ∧ dimensionsValid limits 3 3 = true ∧
      s.inp = itemsOf failed.1 ++ (itemsOf next.1 ++ [op06]) :=
  fun _ _ => ⟨inv_i1 _, rfl, rfl, by decide, by decide, by decide, by decide, rfl⟩

end Sys2Proof.Tests
end

section
/-! PROOFS. The family of the state: what each update keeps of the invariant (R28) and of the agreement of two runs that differ in what
a reset left unspecified (R35), the frames of an instruction, what a step appends to OUT, and STATUS. -/

namespace Sys2Proof.Machine

/-! ### ABORT and events, taken apart -/

theorem execAbort_of_consuming {s : State} (h : s.phase ≠ .init) : execAbort s = .next s.toIdle := by
  unfold execAbort
  split
  · next hp => exact absurd hp h
  all_goals rfl

@[simp] theorem actAll_nil (s : State) : actAll [] s = .next s := rfl

/-- After an event that answers a next state, the events go on from it. -/
theorem actAll_cons_of_next {e : Event} {es : List Event} {s u : State} (h : act e s = .next u) :
    actAll (e :: es) s = actAll es u := by
  simp only [actAll, h]

/-- A list of events that answers a next state passes through the next state of its first event. -/
theorem actAll_cons_next {e : Event} {es : List Event} {s t : State} (h : actAll (e :: es) s = .next t) :
    ∃ u, act e s = .next u ∧ actAll es u = .next t := by
  unfold actAll at h
  split at h
  · next u hu => exact ⟨u, hu, h⟩
  · cases h
  · cases h

/-! ### What the invariant says of one state -/

theorem Inv.err_eq_none {s : State} (h : Inv s) (hp : s.phase ≠ .fault) : s.err = .none :=
  not_not.mp fun he => hp (h.faultIff.mpr he)

/-- R28 (e) over the canonical form: the valid table is the reference table. -/
theorem Inv.table_eq {s : State} (h : Inv s) (hv : s.tv = true) : s.table = referenceTable :=
  eq_referenceTable h.tableWf (h.validTable hv)

/-! ### The invariant after each update -/

/-- R28 speaks of no stream and not of the value of `CRC`. -/
theorem Inv.of_streams {s : State} (h : Inv s) (c : Word) (l : List Item) (o : List OutItem) :
    Inv { s with crc := c, inp := l, out := o } :=
  ⟨h.tableWf, h.faultIff, h.openValid, h.fillNotValid, h.fillDone, h.validTable, h.owes, h.tooLargeValid, h.notReadyInvalid⟩

theorem Inv.dropHead {s : State} (h : Inv s) (rest : List Item) : Inv (s.dropHead rest) := h.of_streams s.crc rest s.out

theorem Inv.hostAppend {s : State} (h : Inv s) (p : Item) : Inv (s.hostAppend p) := h.of_streams s.crc (s.inp ++ [p]) s.out

theorem inv_resetWith {g : ResetGarbage} (hw : Memory.wf g.table = true) : Inv (State.resetWith g) where
  tableWf := hw
  faultIff := by simp
  openValid := by simp
  fillNotValid := nofun
  fillDone := nofun
  validTable := nofun
  owes := nofun
  tooLargeValid := nofun
  notReadyInvalid := nofun

/-- A fault entry keeps the invariant where the fault is one that this `TV` allows (R201, R202, R205). -/
theorem Inv.raise {s : State} {e : Err} (h : Inv s) (he : e ≠ .none) (hbig : e = .payloadTooLarge → s.tv = true)
    (hnr : e = .tableNotReady → s.tv = false) : Inv (s.raise e) where
  tableWf := h.tableWf
  faultIff := by simp [he]
  openValid := by simp
  fillNotValid := nofun
  fillDone := nofun
  validTable := h.validTable
  owes := nofun
  tooLargeValid := hbig
  notReadyInvalid := hnr

theorem Inv.toIdle {s : State} (h : Inv s) : Inv s.toIdle where
  tableWf := h.tableWf
  faultIff := by simp
  openValid := by simp
  fillNotValid := nofun
  fillDone := nofun
  validTable := h.validTable
  owes := nofun
  tooLargeValid := nofun
  notReadyInvalid := nofun

theorem Inv.beginFill {s : State} (h : Inv s) (hp : s.phase = .idle) (hv : s.tv = false) : Inv s.beginFill := by
  have he : s.err = .none := h.err_eq_none (by simp [hp])
  exact
    { tableWf := h.tableWf
      faultIff := by simp [State.beginFill, he]
      openValid := by simp [State.beginFill]
      fillNotValid := fun _ => hv
      fillDone := fun _ n hn => absurd hn (BitVec.not_lt_zero)
      validTable := h.validTable
      owes := nofun
      tooLargeValid := by simp [he]
      notReadyInvalid := by simp [he] }

/-- With the table valid and no fault, a change of registers, streams and phase keeps the invariant if it leads to `IDLE`, to `SPAN`, or
to `PAYLOAD` with bytes owed. -/
theorem Inv.of_working {s t : State} (h : Inv s) (hv : s.tv = true) (hf : s.phase ≠ .fault) (htable : t.table = s.table)
    (htv : t.tv = s.tv) (herr : t.err = s.err)
    (hp : t.phase = .idle ∨ t.phase = .span ∨ (t.phase = .payload ∧ t.cnt ≠ 0#32)) : Inv t := by
  have hv' : t.tv = true := htv.trans hv
  have he' : t.err = .none := herr.trans (h.err_eq_none hf)
  have hni : t.phase ≠ .init := by rcases hp with hp | hp | ⟨hp, -⟩ <;> simp [hp]
  have hnf : t.phase ≠ .fault := by rcases hp with hp | hp | ⟨hp, -⟩ <;> simp [hp]
  exact
    { tableWf := htable ▸ h.tableWf
      faultIff := by simp [hnf, he']
      openValid := fun _ => hv'
      fillNotValid := fun hi => absurd hi hni
      fillDone := fun hi => absurd hi hni
      validTable := fun _ n => by rw [State.tableRead, htable]; exact h.validTable hv n
      owes := fun hpay => by
        rcases hp with hp | hp | ⟨-, hc⟩
        · simp [hp] at hpay
        · simp [hp] at hpay
        · exact hc
      tooLargeValid := fun _ => hv'
      notReadyInvalid := by simp [he'] }

theorem Inv.openChunk {s : State} (h : Inv s) (hp : s.phase = .idle) (hv : s.tv = true) (tag : Tag) (n : Word) :
    Inv (s.openChunk tag n) := by
  refine h.of_working hv (by simp [hp]) (by simp) (by simp) (by simp) ?_
  rcases State.openChunk_phase s tag n with ⟨hidle, -⟩ | ⟨hpay, hn⟩
  · exact .inl hidle
  · exact .inr (.inr ⟨hpay, by simpa using hn⟩)

theorem Inv.payloadStep {s : State} (h : Inv s) (hp : s.phase = .payload) (b : Byte) : Inv (payloadStep b s) := by
  refine h.of_working (h.openValid (.inr hp)) (by simp [hp]) (by simp) (by simp) (by simp) ?_
  rcases payloadStep_phase b s with ⟨hidle, -⟩ | ⟨hpay, hn⟩
  · exact .inl hidle
  · exact .inr (.inr ⟨hpay, by simpa using hn⟩)

/-- After the fill's table write, every entry up to and with `IDX` is done (R105). -/
theorem tableRead_after_fillWrite {s : State} (h : Inv s) (hp : s.phase = .init) {n : Byte} (hn : n ≤ s.idx) :
    (s.tableWrite s.idx (reduce8 (s.idx.setWidth 32))).tableRead n = tableRef n := by
  rw [State.tableRead_tableWrite h.tableWf]
  split
  · next heq => rw [heq, tableRef]
  · next hne => exact h.fillDone hp n (BitVec.lt_of_le_ne hn hne)

theorem Inv.fillStep {s : State} (h : Inv s) (hp : s.phase = .init) : Inv (fillStep s) := by
  have hwf := State.tableWrite_wf s.idx (reduce8 (s.idx.setWidth 32)) h.tableWf
  have hread := fun n => tableRead_after_fillWrite (n := n) h hp
  have he : s.err = .none := h.err_eq_none (by simp [hp])
  have hv : s.tv = false := h.fillNotValid hp
  unfold Machine.fillStep
  by_cases hi : s.idx = 255#8
  · rw [State.advanceFill_last (by simpa using hi)]
    exact
      { tableWf := hwf
        faultIff := by simp [he]
        openValid := by simp
        fillNotValid := nofun
        fillDone := nofun
        validTable := fun _ n => hread n (by rw [hi]; bv_omega)
        owes := nofun
        tooLargeValid := fun _ => rfl
        notReadyInvalid := by simp [he] }
  · rw [State.advanceFill_more (by simpa using hi)]
    exact
      { tableWf := hwf
        faultIff := by simp [he, hp]
        openValid := by simp [hp]
        fillNotValid := fun _ => hv
        fillDone := fun _ n hn => hread n (by simp only [State.setIdx_idx, State.tableWrite_idx] at hn; bv_omega)
        validTable := by simp [hv]
        owes := by simp [hp]
        tooLargeValid := by simp [he]
        notReadyInvalid := by simp [he] }

/-! ### The invariant after an instruction, a step, an event -/

theorem consumeIllegal_keeps_inv {s t : State} (h : Inv s) (hc : consumeIllegal s = .next t) : Inv t := by
  obtain ⟨-, ⟨-, rfl⟩ | ⟨-, rfl⟩⟩ := State.consuming_cases hc
  · exact h
  · exact h.raise nofun nofun nofun

theorem exec_keeps_inv {i : Instr} {s t : State} (h : Inv s) (hx : exec i s = .next t) : Inv t := by
  obtain ⟨-, hcases⟩ := exec_cases hx
  rcases hcases with ⟨rfl, -⟩ | ⟨-, rfl⟩ | ⟨e, rfl, -, -, he, -, hbig, hnr, -⟩ | ⟨-, hp, hv, rfl⟩ | ⟨-, hp, hv, rfl⟩ |
    ⟨-, hp, rfl⟩ | ⟨tag, len, -, hp, hv, -, rfl⟩ | ⟨b, -, hp, rfl⟩ | ⟨b, -, hp, rfl⟩
  · exact h
  · exact h.toIdle
  · exact h.raise he (fun heq => (hbig heq).2.1) (fun heq => (hnr heq).2.1)
  · exact h.beginFill hp hv
  · exact h.of_working hv (by simp [hp]) rfl rfl rfl (.inr (.inl rfl))
  · exact h.of_working (h.openValid (.inl hp)) (by simp [hp]) rfl rfl rfl (.inl rfl)
  · exact h.openChunk hp hv tag _
  · exact h.of_working (h.openValid (.inl hp)) (by simp [hp]) rfl rfl rfl (.inr (.inl hp))
  · exact h.payloadStep hp b

theorem step_keeps_inv {s t : State} (h : Inv s) (hs : step s = .next t) : Inv t := by
  rcases step_cases hs with ⟨hp, rfl⟩ | ⟨-, -, rfl⟩ | ⟨p, rest, -, -, -, hc⟩ | ⟨p, rest, i, -, -, -, hx⟩
  · exact h.fillStep hp
  · exact h
  · exact consumeIllegal_keeps_inv (h.dropHead rest) hc
  · exact exec_keeps_inv (h.dropHead rest) hx

theorem act_keeps_inv {e : Event} {s t : State} (h : Inv s) (hc : eventCanonical e = true) (ha : act e s = .next t) : Inv t := by
  cases e with
  | reset g => cases ha; exact inv_resetWith hc
  | append p => cases ha; exact h.hostAppend p
  | block => exact step_keeps_inv h ha

theorem actAll_keeps_inv {es : List Event} {s t : State} (h : Inv s) (hc : es.all eventCanonical = true)
    (ha : actAll es s = .next t) : Inv t := by
  induction es generalizing s with
  | nil => cases ha; exact h
  | cons e es ih =>
    obtain ⟨hce, hces⟩ := Bool.and_eq_true_iff.mp hc
    obtain ⟨u, hu, hrest⟩ := actAll_cons_next ha
    exact ih (act_keeps_inv h hce hu) hces hrest

/-- Settles O41: each of the four kinds of step keeps the invariant. -/
theorem stepKeepsInvariant : Obligations.StepKeepsInvariant := fun _ _ => step_keeps_inv

/-- Settles O42, by induction on the events. -/
theorem eventsKeepInvariant : Obligations.EventsKeepInvariant := fun _ _ _ => actAll_keeps_inv

/-- Settles O40. -/
theorem invariantAtReset : Obligations.InvariantAtReset :=
  ⟨inv_resetWith Memory.wf_reset, fun _ => inv_resetWith⟩

/-! ### Two runs that differ in what a reset left unspecified (R35) -/

/-- Two states agree in all that a step can read: each register only in the phases that read it. The tables are left out: where they are
read they are valid, and the invariant makes both the reference table. -/
structure AgreeWhereRead (s t : State) : Prop where
  tv : s.tv = t.tv
  phase : s.phase = t.phase
  err : s.err = t.err
  inp : s.inp = t.inp
  out : s.out = t.out
  idx : s.phase = .init → s.idx = t.idx
  crc : s.phase = .span ∨ s.phase = .payload → s.crc = t.crc
  cnt : s.phase = .payload → s.cnt = t.cnt

theorem AgreeWhereRead.sameToHost {s t : State} (h : AgreeWhereRead s t) : SameToHost s t :=
  ⟨by simp only [State.status, h.tv, h.phase, h.err], h.out, h.inp⟩

theorem agreeWhereRead_resetWith (g g' : ResetGarbage) : AgreeWhereRead (State.resetWith g) (State.resetWith g') :=
  ⟨rfl, rfl, rfl, rfl, rfl, nofun, by simp, nofun⟩

section
variable {s t : State} (h : AgreeWhereRead s t)
include h

/-! Agreement is kept by each update made on both sides. -/

theorem AgreeWhereRead.setCrc (v : Word) : AgreeWhereRead (s.setCrc v) (t.setCrc v) :=
  ⟨h.tv, h.phase, h.err, h.inp, h.out, h.idx, fun _ => rfl, h.cnt⟩

theorem AgreeWhereRead.setCnt (v : Word) : AgreeWhereRead (s.setCnt v) (t.setCnt v) :=
  ⟨h.tv, h.phase, h.err, h.inp, h.out, h.idx, h.crc, fun _ => rfl⟩

theorem AgreeWhereRead.setIdx (v : Byte) : AgreeWhereRead (s.setIdx v) (t.setIdx v) :=
  ⟨h.tv, h.phase, h.err, h.inp, h.out, fun _ => rfl, h.crc, h.cnt⟩

theorem AgreeWhereRead.setValid : AgreeWhereRead s.setValid t.setValid :=
  ⟨rfl, h.phase, h.err, h.inp, h.out, h.idx, h.crc, h.cnt⟩

theorem AgreeWhereRead.tableWrite (i : Byte) (v : Word) : AgreeWhereRead (s.tableWrite i v) (t.tableWrite i v) :=
  ⟨h.tv, h.phase, h.err, h.inp, h.out, h.idx, h.crc, h.cnt⟩

theorem AgreeWhereRead.emit (l : List OutItem) : AgreeWhereRead (s.emit l) (t.emit l) :=
  ⟨h.tv, h.phase, h.err, h.inp, congrArg (· ++ l) h.out, h.idx, h.crc, h.cnt⟩

theorem AgreeWhereRead.dropHead (rest : List Item) : AgreeWhereRead (s.dropHead rest) (t.dropHead rest) :=
  ⟨h.tv, h.phase, h.err, rfl, h.out, h.idx, h.crc, h.cnt⟩

theorem AgreeWhereRead.hostAppend (p : Item) : AgreeWhereRead (s.hostAppend p) (t.hostAppend p) :=
  ⟨h.tv, h.phase, h.err, congrArg (· ++ [p]) h.inp, h.out, h.idx, h.crc, h.cnt⟩

/-- Where a phase is entered that reads a register, the two sides must hold the same in it. -/
theorem AgreeWhereRead.setPhase {p : Phase} (hidx : p = .init → s.idx = t.idx)
    (hcrc : p = .span ∨ p = .payload → s.crc = t.crc) (hcnt : p = .payload → s.cnt = t.cnt) :
    AgreeWhereRead (s.setPhase p) (t.setPhase p) :=
  ⟨h.tv, rfl, h.err, h.inp, h.out, hidx, hcrc, hcnt⟩

theorem AgreeWhereRead.setPhase_idle : AgreeWhereRead (s.setPhase .idle) (t.setPhase .idle) :=
  h.setPhase nofun (by simp) nofun

theorem AgreeWhereRead.raise (e : Err) : AgreeWhereRead (s.raise e) (t.raise e) :=
  ⟨h.tv, rfl, rfl, h.inp, h.out, nofun, by simp, nofun⟩

theorem AgreeWhereRead.toIdle : AgreeWhereRead s.toIdle t.toIdle :=
  ⟨h.tv, rfl, rfl, h.inp, h.out, nofun, by simp, nofun⟩

theorem AgreeWhereRead.closeIfPaid (hcrc : s.crc = t.crc) (hcnt : s.cnt = t.cnt) :
    AgreeWhereRead s.closeIfPaid t.closeIfPaid := by
  by_cases h0 : s.cnt = 0#32
  · rw [State.closeIfPaid_paid h0, State.closeIfPaid_paid (hcnt ▸ h0), State.closeChunk, State.closeChunk, hcrc]
    exact (h.emit _).setPhase_idle
  · rw [State.closeIfPaid_owing h0, State.closeIfPaid_owing (hcnt ▸ h0)]
    exact h.setPhase nofun (fun _ => hcrc) (fun _ => hcnt)

theorem AgreeWhereRead.advanceFill (hidx : s.idx = t.idx) : AgreeWhereRead s.advanceFill t.advanceFill := by
  by_cases hlast : s.idx = 255#8
  · rw [State.advanceFill_last hlast, State.advanceFill_last (hidx ▸ hlast)]
    exact h.setValid.setPhase_idle
  · rw [State.advanceFill_more hlast, State.advanceFill_more (hidx ▸ hlast), hidx]
    exact h.setIdx _

theorem AgreeWhereRead.fillStep (hp : s.phase = .init) : AgreeWhereRead (fillStep s) (fillStep t) := by
  unfold Machine.fillStep
  rw [← h.idx hp]
  exact (h.tableWrite _ _).advanceFill (h.idx hp)

/-! What each item does outside phases `INIT` and `FAULT`, on both sides. -/

theorem AgreeWhereRead.initAct : AgreeWhereRead (initAct s) (initAct t) := by
  unfold Machine.initAct
  rw [← h.phase, ← h.tv]
  split
  · split
    · exact h
    · exact (h.setIdx 0#8).setPhase (fun _ => rfl) (by simp) nofun
  all_goals exact h.raise _

theorem AgreeWhereRead.spanAct : AgreeWhereRead (spanAct s) (spanAct t) := by
  unfold Machine.spanAct
  rw [← h.phase, ← h.tv]
  split
  · split
    · exact (h.setCrc _).setPhase nofun (fun _ => rfl) nofun
    · exact h.raise _
  all_goals exact h.raise _

theorem AgreeWhereRead.endAct : AgreeWhereRead (endAct s) (endAct t) := by
  unfold Machine.endAct
  rw [← h.phase]
  split
  · next hp => rw [h.crc (.inl hp)]; exact (h.emit _).setPhase_idle
  all_goals exact h.raise _

/-- Over valid tables both sides read the reference table. -/
theorem AgreeWhereRead.crcUpdate_eq (hs : Inv s) (ht : Inv t) (hv : s.tv = true) : s.crcUpdate = t.crcUpdate := by
  rw [State.crcUpdate_ref (hs.validTable hv), State.crcUpdate_ref (ht.validTable (h.tv ▸ hv))]

theorem AgreeWhereRead.chunkAct (hs : Inv s) (ht : Inv t) (tag : Tag) (len : Length) :
    AgreeWhereRead (chunkAct tag len s) (chunkAct tag len t) := by
  unfold Machine.chunkAct
  rw [← h.phase, ← h.tv]
  split
  · split
    · next hv =>
      split
      · exact h.raise _
      · have hcrc : s.crcOver = t.crcOver := by unfold State.crcOver; rw [h.crcUpdate_eq hs ht hv]
        unfold State.openChunk
        rw [hcrc]
        exact (((h.emit _).setCrc _).setCnt _).closeIfPaid rfl rfl
    · exact h.raise _
  all_goals exact h.raise _

theorem AgreeWhereRead.dataAct (hs : Inv s) (ht : Inv t) (b : Byte) : AgreeWhereRead (dataAct b s) (dataAct b t) := by
  unfold Machine.dataAct
  rw [← h.phase]
  split
  · next hp =>
    rw [h.crcUpdate_eq hs ht (hs.openValid (.inl hp)), h.crc (.inl hp)]
    exact h.setCrc _
  · next hp =>
    unfold payloadStep
    rw [h.crcUpdate_eq hs ht (hs.openValid (.inr hp)), h.crc (.inr hp), h.cnt hp]
    exact (((h.emit _).setCrc _).setCnt _).closeIfPaid rfl rfl
  all_goals exact h.raise _

end

/-- Both outcomes are next states, and these agree. -/
def AgreeingNext (o o' : Host.Outcome State Fault Refusal) : Prop :=
  ∃ s t, o = .next s ∧ o' = .next t ∧ AgreeWhereRead s t

section
variable {s t : State} (h : AgreeWhereRead s t)
include h

theorem AgreeWhereRead.consuming {f : State → State} (hp : s.phase ≠ .init) (hf : AgreeWhereRead (f s) (f t)) :
    AgreeingNext (s.consuming f) (t.consuming f) := by
  by_cases hfault : s.phase = .fault
  · exact ⟨s, t, State.consuming_fault hfault, State.consuming_fault (h.phase ▸ hfault), h⟩
  · exact ⟨f s, f t, State.consuming_open hp hfault, State.consuming_open (h.phase ▸ hp) (h.phase ▸ hfault), hf⟩

theorem AgreeWhereRead.exec (hs : Inv s) (ht : Inv t) (hp : s.phase ≠ .init) (i : Instr) :
    AgreeingNext (exec i s) (exec i t) := by
  cases i with
  | init => exact h.consuming hp h.initAct
  | span => exact h.consuming hp h.spanAct
  | endSpan => exact h.consuming hp h.endAct
  | chunk tag len => exact h.consuming hp (h.chunkAct hs ht tag len)
  | abort => exact ⟨s.toIdle, t.toIdle, execAbort_of_consuming hp, execAbort_of_consuming (h.phase ▸ hp), h.toIdle⟩
  | data b => exact h.consuming hp (h.dataAct hs ht b)

theorem AgreeWhereRead.step (hs : Inv s) (ht : Inv t) : AgreeingNext (step s) (step t) := by
  unfold Machine.step
  by_cases hp : s.phase = .init
  · rw [enabled_init hp, enabled_init (h.phase ▸ hp)]
    exact ⟨_, _, rfl, rfl, h.fillStep hp⟩
  · rw [enabled_consume hp, enabled_consume (h.phase ▸ hp)]
    cases hi : s.inp with
    | nil =>
      rw [fetch_nil hi, fetch_nil (h.inp ▸ hi)]
      exact ⟨_, _, rfl, rfl, h⟩
    | cons p rest =>
      have hd := h.dropHead rest
      cases hdec : decode p with
      | none =>
        rw [fetch_illegal hi hdec, fetch_illegal (h.inp ▸ hi) hdec]
        exact hd.consuming hp (hd.raise _)
      | some i =>
        rw [fetch_item hi hdec, fetch_item (h.inp ▸ hi) hdec]
        exact hd.exec (hs.dropHead rest) (ht.dropHead rest) hp i

theorem AgreeWhereRead.act (hs : Inv s) (ht : Inv t) (e : Event) : AgreeingNext (act e s) (act e t) := by
  cases e with
  | reset g => exact ⟨_, _, rfl, rfl, agreeWhereRead_resetWith g g⟩
  | append p => exact ⟨_, _, rfl, rfl, h.hostAppend p⟩
  | block => exact h.step hs ht

end

theorem AgreeWhereRead.actAll {es : List Event} {s t : State} (h : AgreeWhereRead s t) (hs : Inv s) (ht : Inv t)
    (hc : es.all eventCanonical = true) : AgreeingNext (actAll es s) (actAll es t) := by
  induction es generalizing s t with
  | nil => exact ⟨s, t, rfl, rfl, h⟩
  | cons e es ih =>
    obtain ⟨hce, hces⟩ := Bool.and_eq_true_iff.mp hc
    obtain ⟨u, v, hu, hv, huv⟩ := h.act hs ht e
    rw [actAll_cons_of_next hu, actAll_cons_of_next hv]
    exact ih huv (act_keeps_inv hs hce hu) (act_keeps_inv ht hce hv) hces

/-- Settles O10: the two reset states agree where a step can read, and every event keeps that. -/
theorem resetGarbageIsNeverSeen : Obligations.ResetGarbageIsNeverSeen := by
  intro g g' es hg hg' hc
  obtain ⟨t, t', ht, ht', hagree⟩ := (agreeWhereRead_resetWith g g').actAll (inv_resetWith hg) (inv_resetWith hg') hc
  exact ⟨t, t', ht, ht', hagree.sameToHost⟩

/-! ### What an instruction leaves alone, and what a step appends to OUT -/

theorem exec_table_tv_inp {i : Instr} {s t : State} (hx : exec i s = .next t) :
    t.table = s.table ∧ t.tv = s.tv ∧ t.inp = s.inp := by
  obtain ⟨-, hcases⟩ := exec_cases hx
  rcases hcases with ⟨rfl, -⟩ | ⟨-, rfl⟩ | ⟨e, rfl, -⟩ | ⟨-, -, -, rfl⟩ | ⟨-, -, -, rfl⟩ | ⟨-, -, rfl⟩ |
    ⟨tag, len, -, -, -, -, rfl⟩ | ⟨b, -, -, rfl⟩ | ⟨b, -, -, rfl⟩
  all_goals simp

/-- Settles O34. -/
theorem instructionsLeaveTableAndInput : Obligations.InstructionsLeaveTableAndInput := by
  intro i s t hx
  obtain ⟨htable, htv, hinp⟩ := exec_table_tv_inp hx
  exact ⟨htable, htv, hinp, fun n => by rw [State.tableRead, State.tableRead, htable]⟩

/-- What a step can append to `OUT` in phase `p` (R79, R125, R142, R143). -/
def Emission (p : Phase) (l : List OutItem) : Prop :=
  (p = .span → l = [] ∨ ∃ w, l = [.word w]) ∧
  (p ≠ .span → ∃ bs : List Byte, l = byteItems bs ∧ bs.length ≤ 12)

theorem emission_nil (p : Phase) : Emission p [] :=
  ⟨fun _ => .inl rfl, fun _ => ⟨[], rfl, by simp⟩⟩

theorem emission_word (w : Word) : Emission .span [.word w] :=
  ⟨fun _ => .inr ⟨w, rfl⟩, fun h => absurd rfl h⟩

theorem emission_bytes {p : Phase} (hp : p ≠ .span) {bs : List Byte} (hlen : bs.length ≤ 12) : Emission p (byteItems bs) :=
  ⟨fun h => absurd h hp, fun _ => ⟨bs, rfl, hlen⟩⟩

/-- A step from `s` to `t` appends to `OUT` what the phase of `s` allows. -/
def AppendsEmission (s t : State) : Prop := ∃ l, t.out = s.out ++ l ∧ Emission s.phase l

theorem appendsEmission_of_out_eq {s t : State} (h : t.out = s.out) : AppendsEmission s t :=
  ⟨[], by rw [h, List.append_nil], emission_nil _⟩

/-- The close test emits the four bytes of the CRC or nothing (R142, R143). -/
theorem State.closeIfPaid_out (s : State) : ∃ bs : List Byte, s.closeIfPaid.out = s.out ++ byteItems bs ∧ bs.length ≤ 4 := by
  by_cases h : s.cnt = 0#32
  · exact ⟨be32 (complement s.crc), by rw [State.closeIfPaid_paid h, State.closeChunk_eq], le_rfl⟩
  · exact ⟨[], by simp [State.closeIfPaid_owing h, byteItems], by simp⟩

/-- The header's eight bytes come before what the close test emits (R142). -/
theorem appendsEmission_openChunk {s : State} (hp : s.phase = .idle) (tag : Tag) (n : Word) :
    AppendsEmission s (s.openChunk tag n) := by
  obtain ⟨bs, hout, hlen⟩ := State.closeIfPaid_out
    (((s.emit (byteItems (be32 n ++ tagBytes tag))).setCrc (s.crcOver Config.initV (tagBytes tag))).setCnt n)
  refine ⟨byteItems (be32 n ++ tagBytes tag ++ bs), ?_, emission_bytes (by simp [hp]) ?_⟩
  · rw [State.openChunk, hout]
    simp [byteItems]
  · simp only [be32, tagBytes, List.length_append, List.length_cons, List.length_nil]
    omega

/-- The payload byte comes before what the close test emits (R143). -/
theorem appendsEmission_payloadStep {s : State} (hp : s.phase = .payload) (b : Byte) :
    AppendsEmission s (payloadStep b s) := by
  obtain ⟨bs, hout, hlen⟩ := State.closeIfPaid_out
    (((s.emit [.byte b]).setCrc (s.crcUpdate s.crc b)).setCnt (s.cnt - 1#32))
  refine ⟨byteItems (b :: bs), ?_, emission_bytes (by simp [hp]) ?_⟩
  · rw [payloadStep, hout]
    simp [byteItems]
  · rw [List.length_cons]
    omega

theorem exec_appendsEmission {i : Instr} {s t : State} (hx : exec i s = .next t) : AppendsEmission s t := by
  obtain ⟨-, hcases⟩ := exec_cases hx
  rcases hcases with ⟨rfl, -⟩ | ⟨-, rfl⟩ | ⟨e, rfl, -⟩ | ⟨-, -, -, rfl⟩ | ⟨-, -, -, rfl⟩ | ⟨-, hp, rfl⟩ |
    ⟨tag, len, -, hp, -, -, rfl⟩ | ⟨b, -, -, rfl⟩ | ⟨b, -, hp, rfl⟩
  · exact appendsEmission_of_out_eq rfl
  · exact appendsEmission_of_out_eq rfl
  · exact appendsEmission_of_out_eq rfl
  · exact appendsEmission_of_out_eq rfl
  · exact appendsEmission_of_out_eq rfl
  · exact ⟨_, rfl, hp ▸ emission_word _⟩
  · exact appendsEmission_openChunk hp tag _
  · exact appendsEmission_of_out_eq rfl
  · exact appendsEmission_payloadStep hp b

theorem step_appendsEmission {s t : State} (hs : step s = .next t) : AppendsEmission s t := by
  rcases step_cases hs with ⟨-, rfl⟩ | ⟨-, -, rfl⟩ | ⟨p, rest, -, -, -, hc⟩ | ⟨p, rest, i, -, -, -, hx⟩
  · exact appendsEmission_of_out_eq (by simp [fillStep])
  · exact appendsEmission_of_out_eq rfl
  · obtain ⟨-, ⟨-, rfl⟩ | ⟨-, rfl⟩⟩ := State.consuming_cases hc
    · exact appendsEmission_of_out_eq rfl
    · exact appendsEmission_of_out_eq rfl
  · have happ : AppendsEmission (s.dropHead rest) t := exec_appendsEmission hx
    exact happ

/-- Settles O36. -/
theorem outputOnlyGrows : Obligations.OutputOnlyGrows := fun _ _ => step_appendsEmission

/-! ### STATUS (R29) -/

theorem State.status_eq {s : State} {e : Err} {p : Phase} {v : Bool} (he : s.err = e) (hp : s.phase = p) (hv : s.tv = v) :
    s.status = (errCode e).setWidth 32 <<< 4 ||| (phaseCode p).setWidth 32 <<< 1 ||| (BitVec.ofBool v).setWidth 32 := by
  rw [State.status, he, hp, hv]

@[simp] theorem State.resetWith_status (g : ResetGarbage) : (State.resetWith g).status = 0#32 := by
  rw [State.status_eq (State.resetWith_err g) (State.resetWith_phase g) (State.resetWith_tv g)]
  decide

/-- The three fields of `zext_32({e, p, v})` are where R29 puts them, whatever they hold. -/
theorem statusWord_fields : ∀ (e p : BitVec 3) (v : Bool),
    let w := e.setWidth 32 <<< 4 ||| p.setWidth 32 <<< 1 ||| (BitVec.ofBool v).setWidth 32
    w.getLsbD 0 = v ∧ w.extractLsb' 7 25 = 0#25 ∧ w.extractLsb' 1 3 = p ∧ w.extractLsb' 4 3 = e := by
  decide

/-- Settles O38. -/
theorem statusLayout : Obligations.StatusLayout :=
  ⟨fun s => statusWord_fields (errCode s.err) (phaseCode s.phase) s.tv, State.resetWith_status⟩

/-- Settles O39: the invariant fixes `ERR` outside phase `FAULT`, and `TV` by the phase or by the fault recorded. -/
theorem statusValuesReachable : Obligations.StatusValuesReachable := by
  intro s h
  cases hp : s.phase with
  | idle =>
    cases hv : s.tv
    all_goals rw [State.status_eq (h.err_eq_none (by simp [hp])) hp hv]; decide
  | init => rw [State.status_eq (h.err_eq_none (by simp [hp])) hp (h.fillNotValid hp)]; decide
  | span => rw [State.status_eq (h.err_eq_none (by simp [hp])) hp (h.openValid (.inl hp))]; decide
  | payload => rw [State.status_eq (h.err_eq_none (by simp [hp])) hp (h.openValid (.inr hp))]; decide
  | fault =>
    cases he : s.err with
    | none => exact absurd he (h.faultIff.mp hp)
    | payloadTooLarge => rw [State.status_eq he hp (h.tooLargeValid he)]; decide
    | tableNotReady => rw [State.status_eq he hp (h.notReadyInvalid he)]; decide
    | illegalCommand | sequenceError =>
      cases hv : s.tv
      all_goals rw [State.status_eq he hp hv]; decide

/-! ### The host's events -/

/-- Settles O9. -/
theorem modelResetIsAReset : Obligations.ModelResetIsAReset := fun _ => rfl

/-- Settles O11. -/
theorem appendOnlyExtendsInput : Obligations.AppendOnlyExtendsInput := fun _ _ => rfl

end Sys2Proof.Machine
end

section
/-! PROOFS. The table (R60): outside the fill no step writes it or `TV`, so once it is valid it stays as it is until a reset. -/

namespace Sys2Proof.Machine

theorem consumeIllegal_table_tv {s t : State} (hc : consumeIllegal s = .next t) : t.table = s.table ∧ t.tv = s.tv := by
  obtain ⟨-, ⟨-, rfl⟩ | ⟨-, rfl⟩⟩ := State.consuming_cases hc
  · exact ⟨rfl, rfl⟩
  · exact ⟨rfl, rfl⟩

/-- Only the fill step writes the table and `TV`. -/
theorem step_table_tv_of_not_filling {s t : State} (hp : s.phase ≠ .init) (hs : step s = .next t) :
    t.table = s.table ∧ t.tv = s.tv := by
  rcases step_cases hs with ⟨hfill, -⟩ | ⟨-, -, rfl⟩ | ⟨p, rest, -, -, -, hc⟩ | ⟨p, rest, i, -, -, -, hx⟩
  · exact absurd hfill hp
  · exact ⟨rfl, rfl⟩
  · exact consumeIllegal_table_tv (s := s.dropHead rest) hc
  · obtain ⟨htable, htv, -⟩ := exec_table_tv_inp hx
    exact ⟨htable, htv⟩

/-- R28 (d): a block whose table is valid is not in the fill. -/
theorem Inv.phase_ne_init {s : State} (h : Inv s) (hv : s.tv = true) : s.phase ≠ .init := fun hp => by
  simp [h.fillNotValid hp] at hv

theorem eventCanonical_of_not_isReset {e : Event} (hr : isReset e = false) : eventCanonical e = true := by
  cases e with
  | reset g => cases hr
  | append p => rfl
  | block => rfl

theorem act_table_tv_of_valid {e : Event} {s t : State} (h : Inv s) (hv : s.tv = true) (hr : isReset e = false)
    (ha : act e s = .next t) : t.table = s.table ∧ t.tv = s.tv := by
  cases e with
  | reset g => cases hr
  | append p => cases ha; exact ⟨rfl, rfl⟩
  | block => exact step_table_tv_of_not_filling (h.phase_ne_init hv) ha

theorem actAll_table_tv_of_valid {es : List Event} {s t : State} (h : Inv s) (hv : s.tv = true)
    (hr : es.all (fun e => !isReset e) = true) (ha : actAll es s = .next t) : t.table = s.table ∧ t.tv = s.tv := by
  induction es generalizing s with
  | nil => cases ha; exact ⟨rfl, rfl⟩
  | cons e es ih =>
    obtain ⟨hnot, hres⟩ := Bool.and_eq_true_iff.mp hr
    have hre : isReset e = false := (Bool.not_eq_true' _).mp hnot
    obtain ⟨u, hu, hrest⟩ := actAll_cons_next ha
    obtain ⟨htable, htv⟩ := act_table_tv_of_valid h hv hre hu
    have hu' : Inv u := act_keeps_inv h (eventCanonical_of_not_isReset hre) hu
    obtain ⟨htable', htv'⟩ := ih hu' (htv.trans hv) hres hrest
    exact ⟨htable'.trans htable, htv'.trans htv⟩

/-- Settles O43: with `TV = 1` the block is never in the fill, and no other step or event writes the table or `TV`. -/
theorem validTableIsImmutable : Obligations.ValidTableIsImmutable := by
  intro es s t h hv hr ha
  obtain ⟨htable, htv⟩ := actAll_table_tv_of_valid h hv hr ha
  exact ⟨htv.trans hv, htable⟩

end Sys2Proof.Machine
end

section
/-! PROOFS. The family of the encoding (R71 to R83): an item is its fields side by side, so decoding and encoding are inverse to
each other; the legal words (R76), the table (R74), the packed output items (R79) and the assembler's lines (R82) follow from that. -/

namespace Sys2Proof

/-! ### An item is determined by its fields (R71 to R73) -/

/-- Two fields that meet, the lower one ending at bit 0, are one field. -/
theorem append_lowField {n : Nat} (x : BitVec n) (hi lo : Nat) :
    x.extractLsb' lo hi ++ x.extractLsb' 0 lo = x.extractLsb' 0 (hi + lo) :=
  BitVec.extractLsb'_append_extractLsb'_eq_extractLsb' (Nat.zero_add lo).symm

theorem CommandWord.append_fields (w : CommandWord) : w.op ++ (w.rsv ++ w.operands) = w := by
  rw [CommandWord.op, CommandWord.rsv, CommandWord.operands, append_lowField w 24 96, append_lowField w 8 120,
    BitVec.extractLsb'_eq_self]

theorem CommandWord.append_operands (w : CommandWord) :
    w.tag.t0 ++ (w.tag.t1 ++ (w.tag.t2 ++ (w.tag.t3 ++ w.len))) = w.operands := by
  rw [CommandWord.tag, CommandWord.len, append_lowField w 8 64, append_lowField w 8 72, append_lowField w 8 80,
    append_lowField w 8 88, CommandWord.operands]

theorem CommandWord.ext_fields {v w : CommandWord} (hop : v.op = w.op) (hrsv : v.rsv = w.rsv) (hopd : v.operands = w.operands) :
    v = w := by
  rw [← CommandWord.append_fields v, ← CommandWord.append_fields w, hop, hrsv, hopd]

theorem CommandWord.operands_ext {v w : CommandWord} (htag : v.tag = w.tag) (hlen : v.len = w.len) : v.operands = w.operands := by
  rw [← CommandWord.append_operands v, ← CommandWord.append_operands w, htag, hlen]

theorem Item.append_data (p : Item) : p.padding ++ p.dataByte = p.command := append_lowField p 120 8

theorem Item.ext_command {p q : Item} (hk : p.kind = q.kind) (hw : p.command = q.command) : p = q := by
  apply BitVec.eq_of_getLsbD_eq
  intro i hi
  by_cases h : i < 128
  · simpa [Item.command, h] using congrArg (fun w => BitVec.getLsbD w i) hw
  · obtain rfl : i = 128 := by omega
    exact hk

theorem Item.ext_data {p q : Item} (hk : p.kind = q.kind) (hpad : p.padding = q.padding) (hb : p.dataByte = q.dataByte) : p = q := by
  apply Item.ext_command hk
  rw [← Item.append_data p, ← Item.append_data q, hpad, hb]

theorem CommandWord.tag_of_operands {w : CommandWord} (h : w.operands = 0#96) : w.tag = zeroTag := by
  have field (lo : Nat) (hlo : lo + 8 ≤ 96) : w.extractLsb' lo 8 = 0#8 := by
    rw [← BitVec.extractLsb'_extractLsb'_of_le hlo]
    exact (congrArg _ h).trans BitVec.extractLsb'_zero
  simp [CommandWord.tag, zeroTag, field]

theorem CommandWord.len_of_operands {w : CommandWord} (h : w.operands = 0#96) : w.len = 0#64 := by
  rw [CommandWord.len, ← BitVec.extractLsb'_extractLsb'_of_le (len' := 96) (by decide)]
  exact (congrArg _ h).trans BitVec.extractLsb'_zero

theorem commandItem_of_fields {p : Item} (hk : p.kind = true) (hrsv : p.command.rsv = 0#24) :
    commandItem p.command.op p.command.tag p.command.len = p := by
  apply Item.ext_command ((commandItem_kind ..).trans hk.symm)
  exact CommandWord.ext_fields (commandItem_op ..) ((commandItem_rsv ..).trans hrsv.symm)
    (CommandWord.operands_ext (commandItem_tag ..) (commandItem_len ..))

theorem dataItem_of_fields {p : Item} (hk : p.kind = false) (hpad : p.padding = 0#120) : Item.field p.dataByte 0 = p :=
  Item.ext_data ((dataItem_kind _).trans hk.symm) ((dataItem_padding _).trans hpad.symm) (dataItem_dataByte _)

/-! ### Decode and encode are inverse to each other (R80) -/

theorem decode_of_command {p : Item} (hk : p.kind = true) : decode p = decodeCommand p.command := by
  simp [decode, hk]

theorem decode_of_data {p : Item} (hk : p.kind = false) (hpad : p.padding = 0#120) : decode p = some (.data p.dataByte) := by
  simp [decode, hk, hpad]

theorem noOperands_eq_some {w : CommandWord} {i j : Instr} : noOperands w i = some j ↔ w.operands = 0#96 ∧ i = j := by
  simp [noOperands]

theorem decode_commandItem (op : Byte) (t : Tag) (len : Length) :
    decode (commandItem op t len) = decodeOp (commandItem op t len).command := by
  rw [decode_of_command (commandItem_kind ..), decodeCommand, if_pos (commandItem_rsv ..)]

theorem decode_encode (i : Instr) : decode (encode i) = some i := by
  cases i with
  | init | span | endSpan | abort =>
    simp [encode, decode_commandItem, decodeOp, commandItem_op, noOperands, commandItem_operands]
  | chunk t len => simp [encode, decode_commandItem, decodeOp, commandItem_op, commandItem_tag, commandItem_len]
  | data b => rw [encode, decode_of_data (dataItem_kind b) (dataItem_padding b), dataItem_dataByte]

/-- A word that decodes by its `OP` holds the fields of the instruction's encoding: those without operands have them zero (R76). -/
theorem encode_of_decodeOp {w : CommandWord} {i : Instr} (h : decodeOp w = some i) : encode i = commandItem w.op w.tag w.len := by
  have bare {op : Byte} {j : Instr} (henc : encode j = commandItem op zeroTag 0#64) (hop : w.op = op)
      (hj : noOperands w j = some i) : encode i = commandItem w.op w.tag w.len := by
    obtain ⟨hz, rfl⟩ := noOperands_eq_some.mp hj
    rw [henc, hop, CommandWord.tag_of_operands hz, CommandWord.len_of_operands hz]
  unfold decodeOp at h
  split_ifs at h with h1 h2 h3 h4 h5
  · exact bare rfl h1 h
  · exact bare rfl h2 h
  · exact bare rfl h3 h
  · cases h; rw [encode, h4]
  · exact bare rfl h5 h

theorem encode_of_decode {p : Item} {i : Instr} (h : decode p = some i) : encode i = p := by
  unfold decode decodeCommand at h
  split_ifs at h with hk hrsv hpad
  · rw [encode_of_decodeOp h, commandItem_of_fields hk hrsv]
  · cases h
    exact dataItem_of_fields (Bool.eq_false_of_not_eq_true hk) hpad

theorem decode_eq_some_iff {p : Item} {i : Instr} : decode p = some i ↔ encode i = p :=
  ⟨encode_of_decode, fun h => h ▸ decode_encode i⟩

/-- Settles O2: every field of the encoding is read back where the format puts it. -/
theorem decodeOfEncode : Obligations.DecodeOfEncode := decode_encode

/-- Settles O3: an item is the encoding of the fields that decoding reads, so no bit is ignored. -/
theorem decodedItemIsItsEncoding : Obligations.DecodedItemIsItsEncoding := fun _ _ => encode_of_decode

/-- Settles O1: twelve fixed items, evaluated. -/
theorem workedEncodings : Obligations.WorkedEncodings := by
  unfold Obligations.WorkedEncodings
  decide

/-! ### The legal command words (R76) -/

theorem CommandWord.eq_append_iff {w : CommandWord} {op : Byte} {rsv : BitVec 24} {opd : BitVec 96} :
    w = op ++ (rsv ++ opd) ↔ w.op = op ∧ w.rsv = rsv ∧ w.operands = opd := by
  constructor
  · rintro rfl
    refine ⟨BitVec.extractLsb'_append_eq_left, ?_, ?_⟩
    · exact (BitVec.extractLsb'_append_eq_of_add_le (by decide)).trans BitVec.extractLsb'_append_eq_left
    · exact (BitVec.extractLsb'_append_eq_of_add_le (by decide)).trans BitVec.extractLsb'_append_eq_right
  · rintro ⟨rfl, rfl, rfl⟩
    exact (CommandWord.append_fields w).symm

theorem CommandWord.eq_chunkWord_iff {w : CommandWord} {typ : Word} {len : Length} :
    w = ((0x04#128 <<< 120) ||| (typ.setWidth 128 <<< 64) ||| len.setWidth 128) ↔
      w.op = 0x04#8 ∧ w.rsv = 0#24 ∧ w.operands = typ ++ len := by
  have hop : 0x04#128 <<< 120 = (0x04#8 ++ 0#24).setWidth 128 <<< (32 + 64) := by decide
  rw [hop, ← BitVec.setWidth_append_append_eq_shiftLeft_setWidth_or, BitVec.append_assoc, BitVec.append_assoc]
  exact CommandWord.eq_append_iff

theorem CommandWord.exists_chunkWord_iff {w : CommandWord} :
    (∃ (typ : Word) (len : Length), w = ((0x04#128 <<< 120) ||| (typ.setWidth 128 <<< 64) ||| len.setWidth 128)) ↔
      w.op = 0x04#8 ∧ w.rsv = 0#24 := by
  simp only [CommandWord.eq_chunkWord_iff]
  constructor
  · rintro ⟨typ, len, hop, hrsv, -⟩
    exact ⟨hop, hrsv⟩
  · rintro ⟨hop, hrsv⟩
    exact ⟨w.extractLsb' 64 32, w.len, hop, hrsv, (append_lowField w 32 64).symm⟩

/-- `OP` of a command without operands (R74, R76). -/
def BareOp (op : Byte) : Prop := op = 0x01#8 ∨ op = 0x02#8 ∨ op = 0x03#8 ∨ op = 0x05#8

theorem CommandWord.bareWord_iff {w : CommandWord} :
    ((w = (0x01#128 <<< 120) ∨ w = (0x02#128 <<< 120)) ∨ w = (0x03#128 <<< 120)) ∨ w = (0x05#128 <<< 120) ↔
      BareOp w.op ∧ w.rsv = 0#24 ∧ w.operands = 0#96 := by
  have word (op : Byte) (c : CommandWord) (hc : c = op ++ (0#24 ++ 0#96)) :
      w = c ↔ w.op = op ∧ w.rsv = 0#24 ∧ w.operands = 0#96 := hc ▸ CommandWord.eq_append_iff
  rw [word 0x01#8 _ (by decide), word 0x02#8 _ (by decide), word 0x03#8 _ (by decide), word 0x05#8 _ (by decide), BareOp]
  simp only [or_and_right, or_assoc]

theorem noOperands_ne_none {w : CommandWord} {i : Instr} : noOperands w i ≠ none ↔ w.operands = 0#96 := by
  simp [noOperands]

theorem decodeOp_ne_none {w : CommandWord} : decodeOp w ≠ none ↔ BareOp w.op ∧ w.operands = 0#96 ∨ w.op = 0x04#8 := by
  unfold decodeOp
  split_ifs with h1 h2 h3 h4 h5
  · simp [noOperands_ne_none, BareOp, h1]
  · simp [noOperands_ne_none, BareOp, h2]
  · simp [noOperands_ne_none, BareOp, h3]
  · simp [h4]
  · simp [noOperands_ne_none, BareOp, h5]
  · simp [BareOp, h1, h2, h3, h4, h5]

theorem decodeCommand_ne_none {w : CommandWord} :
    decodeCommand w ≠ none ↔ w.rsv = 0#24 ∧ (BareOp w.op ∧ w.operands = 0#96 ∨ w.op = 0x04#8) := by
  rw [← decodeOp_ne_none]
  simp [decodeCommand]

/-- Settles O4: a word is legal exactly when `RSV` is zero and its `OP` either needs no operands and has none, or is that of CHUNK. -/
theorem legalCommandWordsListed : Obligations.LegalCommandWordsListed := by
  intro p hk
  rw [decode_of_command hk]
  refine ⟨?_, fun hrsv => ?_, fun hop hopd => ?_⟩
  · rw [decodeCommand_ne_none, CommandWord.exists_chunkWord_iff, ← or_assoc, ← or_assoc, ← or_assoc, CommandWord.bareWord_iff,
      and_or_left]
    exact or_congr and_left_comm and_comm
  · by_contra h
    exact hrsv (decodeCommand_ne_none.mp h).1
  · by_contra h
    obtain ⟨-, ⟨-, hz⟩ | hchunk⟩ := decodeCommand_ne_none.mp h
    · exact hopd hz
    · rw [hchunk] at hop
      revert hop
      decide

/-! ### The opcode table (R74, R77) -/

theorem extractLsb'_extractLsb' {n lo len s m : Nat} (x : BitVec n) (h : s + m ≤ len) :
    (x.extractLsb' lo len).extractLsb' s m = x.extractLsb' (lo + s) m := by
  ext i hi
  simp [show s + i < len by omega, Nat.add_assoc]

/-- The bits that the CHUNK row tests are `K`, `OP` and `RSV`. -/
theorem encode_chunk_of_high {p : Item} (h : p.extractLsb' 96 33 = 0x104000000#33) :
    encode (.chunk p.command.tag p.command.len) = p := by
  have hk : p.kind = true :=
    calc p.kind
      _ = (p.extractLsb' 96 33).getLsbD 32 := by simp [Item.kind]
      _ = true := by rw [h]; decide
  have hop : p.command.op = 0x04#8 :=
    calc p.command.op
      _ = (p.extractLsb' 96 33).extractLsb' 24 8 := by
        rw [Item.command, CommandWord.op, extractLsb'_extractLsb' p (by decide), extractLsb'_extractLsb' p (by decide)]
      _ = 0x04#8 := by rw [h]; decide
  have hrsv : p.command.rsv = 0#24 :=
    calc p.command.rsv
      _ = (p.extractLsb' 96 33).extractLsb' 0 24 := by
        rw [Item.command, CommandWord.rsv, extractLsb'_extractLsb' p (by decide), extractLsb'_extractLsb' p (by decide)]
      _ = 0#24 := by rw [h]; decide
  rw [encode, ← hop, commandItem_of_fields hk hrsv]

theorem encode_chunk_high (t : Tag) (len : Length) : (encode (.chunk t len)).extractLsb' 96 33 = 0x104000000#33 := by
  apply BitVec.eq_of_getLsbD_eq
  intro i hi
  simp [encode, commandItem, Item.field, hi]
  interval_cases i <;> simp

/-- The bits that the DATA row tests are `K` and the padding. -/
theorem encode_data_of_high {p : Item} (h : p.extractLsb' 8 121 = 0#121) : encode (.data p.dataByte) = p := by
  have hk : p.kind = false :=
    calc p.kind
      _ = (p.extractLsb' 8 121).getLsbD 120 := by simp [Item.kind]
      _ = false := by rw [h]; decide
  have hpad : p.padding = 0#120 :=
    calc p.padding
      _ = (p.extractLsb' 8 121).extractLsb' 0 120 := by rw [Item.padding, extractLsb'_extractLsb' p (by decide)]
      _ = 0#120 := by rw [h]; decide
  exact dataItem_of_fields hk hpad

theorem encode_data_high (b : Byte) : (encode (.data b)).extractLsb' 8 121 = 0#121 := by
  apply BitVec.eq_of_getLsbD_eq
  intro i hi
  simp [encode, Item.field, hi]

/-- A mask of the high bits tests exactly those bits. -/
theorem and_highMask_eq_iff {m n : Nat} (p : BitVec (m + n)) (c : BitVec m) :
    p &&& (BitVec.allOnes m ++ 0#n) = c ++ 0#n ↔ p.extractLsb' n m = c := by
  have hsplit : p.extractLsb' n m ++ p.extractLsb' 0 n = p := BitVec.extractLsb'_append_extractLsb'
  conv_lhs => rw [← hsplit, BitVec.and_append, BitVec.and_allOnes, BitVec.and_zero, BitVec.append_left_inj]

theorem fits_mk {name : String} {mask pattern p : Item} :
    OpcodeRow.fits ⟨name, mask, pattern⟩ p = true ↔ p &&& mask = pattern := by
  simp [OpcodeRow.fits]

/-- A row of a command without operands fixes the whole item. -/
theorem fits_bareRow {p : Item} {j : Instr} (hm : ∀ i : Instr, i.mnemonic = j.mnemonic ↔ i = j) :
    OpcodeRow.fits ⟨j.mnemonic, BitVec.allOnes 129, encode j⟩ p = true ↔ ∃ i, decode p = some i ∧ i.mnemonic = j.mnemonic := by
  simp only [fits_mk, BitVec.and_allOnes, hm, exists_eq_right, decode_eq_some_iff]
  exact eq_comm

theorem fits_chunkRow {p : Item} :
    OpcodeRow.fits ⟨"CHUNK", BitVec.allOnes 33 ++ 0#96, 0x104000000#33 ++ 0#96⟩ p = true ↔
      ∃ i, decode p = some i ∧ i.mnemonic = "CHUNK" := by
  rw [fits_mk, and_highMask_eq_iff (m := 33) (n := 96)]
  constructor
  · intro h
    exact ⟨_, decode_eq_some_iff.mpr (encode_chunk_of_high h), rfl⟩
  · rintro ⟨i, hi, hm⟩
    obtain rfl := encode_of_decode hi
    cases i with
    | chunk t len => exact encode_chunk_high t len
    | init | span | endSpan | abort | data => simp [Instr.mnemonic] at hm

theorem fits_dataRow {p : Item} :
    OpcodeRow.fits ⟨"DATA", BitVec.allOnes 121 ++ 0#8, 0#121 ++ 0#8⟩ p = true ↔
      ∃ i, decode p = some i ∧ i.mnemonic = "DATA" := by
  rw [fits_mk, and_highMask_eq_iff (m := 121) (n := 8)]
  constructor
  · intro h
    exact ⟨_, decode_eq_some_iff.mpr (encode_data_of_high h), rfl⟩
  · rintro ⟨i, hi, hm⟩
    obtain rfl := encode_of_decode hi
    cases i with
    | data b => exact encode_data_high b
    | init | span | endSpan | abort | chunk => simp [Instr.mnemonic] at hm

/-- The rows of the table, each over its own fields. -/
theorem opcodeRows_eq : opcodeRows =
    [ ⟨Instr.init.mnemonic, BitVec.allOnes 129, encode .init⟩, ⟨Instr.span.mnemonic, BitVec.allOnes 129, encode .span⟩,
      ⟨Instr.endSpan.mnemonic, BitVec.allOnes 129, encode .endSpan⟩,
      ⟨"CHUNK", BitVec.allOnes 33 ++ 0#96, 0x104000000#33 ++ 0#96⟩,
      ⟨Instr.abort.mnemonic, BitVec.allOnes 129, encode .abort⟩,
      ⟨"DATA", BitVec.allOnes 121 ++ 0#8, 0#121 ++ 0#8⟩ ] := by decide

/-- Settles O5: a row tests exactly the fields that the decoder tests for its mnemonic. -/
theorem decoderAgreesWithOpcodeTable : Obligations.DecoderAgreesWithOpcodeTable := by
  intro p r hr
  rw [opcodeRows_eq] at hr
  simp only [List.mem_cons, List.not_mem_nil, or_false] at hr
  rcases hr with rfl | rfl | rfl | rfl | rfl | rfl
  · exact fits_bareRow fun i => by cases i <;> simp [Instr.mnemonic]
  · exact fits_bareRow fun i => by cases i <;> simp [Instr.mnemonic]
  · exact fits_bareRow fun i => by cases i <;> simp [Instr.mnemonic]
  · exact fits_chunkRow
  · exact fits_bareRow fun i => by cases i <;> simp [Instr.mnemonic]
  · exact fits_dataRow

end Sys2Proof

namespace Sys2Proof.Machine

/-! ### Output items (R79) -/

theorem packOut_byte_kind (b : Byte) : (packOut (.byte b)).getLsbD 32 = false := by
  simp [packOut]

theorem packOut_byte_low (b : Byte) : (packOut (.byte b)).extractLsb' 0 8 = b := by
  rw [packOut, BitVec.extractLsb'_setWidth_of_le (by decide), BitVec.extractLsb'_eq_self]

theorem packOut_byte_padding (b : Byte) : (packOut (.byte b)).extractLsb' 8 24 = 0#24 := by
  ext i hi
  simp [packOut]

theorem packOut_word_kind (w : Word) : (packOut (.word w)).getLsbD 32 = true := by
  simp [packOut]

theorem packOut_word_low (w : Word) : (packOut (.word w)).extractLsb' 0 32 = w := by
  rw [packOut, BitVec.extractLsb'_or, BitVec.extractLsb'_setWidth_of_le (by decide), BitVec.extractLsb'_eq_self]
  exact BitVec.zero_or

theorem packOut_byte_ne_word (b : Byte) (w : Word) : packOut (.byte b) ≠ packOut (.word w) := by
  intro h
  have hk : (packOut (.byte b)).getLsbD 32 = (packOut (.word w)).getLsbD 32 := by rw [h]
  rw [packOut_byte_kind, packOut_word_kind] at hk
  cases hk

theorem packOut_injective : ∀ x y : OutItem, packOut x = packOut y → x = y
  | .byte b, .byte c, h => by rw [← packOut_byte_low b, h, packOut_byte_low]
  | .word v, .word w, h => by rw [← packOut_word_low v, h, packOut_word_low]
  | .byte b, .word w, h => absurd h (packOut_byte_ne_word b w)
  | .word w, .byte b, h => absurd h.symm (packOut_byte_ne_word b w)

/-- Settles O6: the low bits give the payload back, and bit 32 tells the two kinds apart. -/
theorem packedOutputItems : Obligations.PackedOutputItems :=
  ⟨fun b => ⟨packOut_byte_kind b, packOut_byte_low b, packOut_byte_padding b⟩,
    fun w => ⟨packOut_word_kind w, packOut_word_low w⟩, packOut_injective⟩

/-! ### Assembler lines (R81, R82) -/

theorem asmEvents_eq_appends (g : ResetGarbage) {a : AsmLine} (ha : a ≠ .reset) :
    asmEvents g a = (asmProgram a).map fun i => Event.append (encode i) := by
  cases a with
  | reset => exact absurd rfl ha
  | blank | expect | instr => rfl
  | bytes | checksum | buildChunk => exact List.map_map

/-- Settles O7: the expansions are definitions; the host appends an expansion item by item. -/
theorem pseudoInstructionExpansions : Obligations.PseudoInstructionExpansions :=
  ⟨fun _ => rfl, fun _ => rfl, fun _ _ => rfl, fun g _ => asmEvents_eq_appends g⟩

end Sys2Proof.Machine
end

section
/-! PROOFS. The family of the table's initialisation (R100 to R110): the fill step and its 256-fold run in closed form, INIT in every
phase, the frame of each instruction, and the reducer's algebra (linear and injective), from which the checks of R110 follow. -/

namespace Sys2Proof.Machine

/-! ### The fill step (R105) -/

theorem step_of_filling {s : State} (hp : s.phase = .init) : step s = .next (fillStep s) := by
  rw [step, enabled_init hp]

/-- The fill step before the last entry. -/
theorem fillStep_more {s : State} (hi : s.idx ≠ 255#8) :
    fillStep s = { s with table := Memory.write s.table s.idx.toNat (tableRef s.idx), idx := s.idx + 1#8 } := by
  rw [fillStep, State.advanceFill_more (by simpa using hi)]
  rfl

/-- The fill step on the last entry. -/
theorem fillStep_last {s : State} (hi : s.idx = 255#8) :
    fillStep s =
      { s with table := Memory.write s.table s.idx.toNat (tableRef s.idx), tv := true, phase := .idle } := by
  rw [fillStep, State.advanceFill_last (by simpa using hi)]
  rfl

theorem fillStep_tableRead {s : State} (hw : Memory.wf s.table = true) (n : Byte) :
    (fillStep s).tableRead n = if n = s.idx then reduce8 (s.idx.setWidth 32) else s.tableRead n := by
  rw [State.tableRead, fillStep, State.advanceFill_table]
  exact State.tableRead_tableWrite hw s.idx n _

theorem fillStep_frame (s : State) :
    (fillStep s).inp = s.inp ∧ (fillStep s).out = s.out ∧ (fillStep s).crc = s.crc ∧ (fillStep s).cnt = s.cnt ∧
    (fillStep s).err = s.err := by
  simp [fillStep]

/-- Settles O20: the write and the frame hold at every index, `TV`, `PHASE` and `IDX` depend on whether it is the last. -/
theorem fillStepWritesOneEntry : Obligations.FillStepWritesOneEntry := by
  intro s hw hp
  obtain ⟨hinp, hout, hcrc, hcnt, herr⟩ := fillStep_frame s
  refine ⟨fillStep s, step_of_filling hp, fillStep_tableRead hw, hinp, hout, hcrc, hcnt, herr, fun hlast => ?_, fun hmore => ?_⟩
  · rw [fillStep_last hlast]
    exact ⟨rfl, rfl, rfl⟩
  · rw [fillStep_more hmore]
    exact ⟨rfl, hp, by bv_omega⟩

/-! ### The whole fill (R106) -/

/-- The table after the first `k` ascending writes of the fill, over whatever it held before. -/
def writeEntries (m : Memory) (k : Nat) : Memory :=
  (List.range k).foldl (fun m j => Memory.write m j (tableRef (BitVec.ofNat 8 j))) m

theorem writeEntries_succ (m : Memory) (k : Nat) :
    writeEntries m (k + 1) = Memory.write (writeEntries m k) k (tableRef (BitVec.ofNat 8 k)) := by
  simp [writeEntries, List.range_succ]

/-- The fill step's write at `IDX = k`. -/
theorem writeEntries_fill (m : Memory) {k : Nat} (hk : k < 256) :
    Memory.write (writeEntries m k) (BitVec.ofNat 8 k).toNat (tableRef (BitVec.ofNat 8 k)) = writeEntries m (k + 1) := by
  rw [writeEntries_succ, BitVec.toNat_ofNat, Nat.mod_eq_of_lt hk]

/-- The writes keep the canonical form and leave `TABLE_REF` below `k`. -/
theorem writeEntries_wf_read {m : Memory} (hw : Memory.wf m = true) {k : Nat} (hk : k ≤ Config.tableN) :
    Memory.wf (writeEntries m k) = true ∧ ∀ a < k, Memory.read (writeEntries m k) a = tableRef (BitVec.ofNat 8 a) := by
  induction k with
  | zero => exact ⟨hw, by omega⟩
  | succ k ih =>
    obtain ⟨hwk, hread⟩ := ih (by omega)
    rw [writeEntries_succ]
    refine ⟨Memory.wf_write _ (by omega) hwk, fun a ha => ?_⟩
    rw [Memory.read_write (lo := 0) hwk]
    split
    · next heq => rw [heq]
    · exact hread a (by omega)

/-- After all 256 writes nothing is left of what the table held. -/
theorem writeEntries_all {m : Memory} (hw : Memory.wf m = true) : writeEntries m 256 = referenceTable := by
  obtain ⟨hwf, hread⟩ := writeEntries_wf_read hw (k := 256) le_rfl
  refine eq_referenceTable hwf fun n => ?_
  rw [hread n.toNat n.isLt, BitVec.ofNat_toNat, BitVec.setWidth_eq]

theorem runSteps_succ_filling {k : Nat} {s u : State} (hrun : runSteps k s = .next u) (hp : u.phase = .init) :
    runSteps (k + 1) s = .next (fillStep u) := by
  rw [runSteps_add hrun]
  exact runSteps_succ (k := 0) (step_of_filling hp)

/-- The fill under way: after `k` of its steps, `k` entries are written and `IDX` is `k`. -/
theorem runSteps_filling {s : State} (hp : s.phase = .init) (hi : s.idx = 0#8) {k : Nat} (hk : k ≤ 255) :
    runSteps k s = .next { s with table := writeEntries s.table k, idx := BitVec.ofNat 8 k } := by
  induction k with
  | zero => rw [runSteps_zero, ← hi]; rfl
  | succ k ih =>
    have hne : BitVec.ofNat 8 k ≠ 255#8 := by bv_omega
    rw [runSteps_succ_filling (ih (by omega)) hp, fillStep_more (by exact hne), writeEntries_fill _ (by omega), BitVec.ofNat_add]

/-- The whole fill, the 256th step writing the last entry. -/
theorem runSteps_fill {s : State} (hw : Memory.wf s.table = true) (hp : s.phase = .init) (hi : s.idx = 0#8) :
    runSteps 256 s = .next { s with table := referenceTable, tv := true, phase := .idle, idx := 255#8 } := by
  rw [runSteps_succ_filling (runSteps_filling hp hi le_rfl) hp, fillStep_last (by rfl), writeEntries_fill _ (by decide),
    writeEntries_all hw]

/-- Settles O21: the fill under way for the phase, the whole fill for its end. -/
theorem fillEndsAfter256Steps : Obligations.FillEndsAfter256Steps := fun _ hw hp hi =>
  ⟨fun _ hk => ⟨_, runSteps_filling hp hi (Nat.le_of_lt_succ hk), hp⟩,
    _, runSteps_fill hw hp hi, tableRead_of_reference rfl, rfl, rfl, rfl, rfl, rfl, rfl, rfl⟩

/-! ### INIT (R104, R107) -/

theorem initAct_idle_invalid {s : State} (hp : s.phase = .idle) (hv : s.tv = false) : initAct s = s.beginFill := by
  simp [initAct, hp, hv]

theorem initAct_idle_valid {s : State} (hp : s.phase = .idle) (hv : s.tv = true) : initAct s = s := by
  simp [initAct, hp, hv]

theorem initAct_open {s : State} (hp : s.phase = .span ∨ s.phase = .payload) : initAct s = s.raise .sequenceError := by
  rcases hp with hp | hp
  · simp [initAct, hp]
  · simp [initAct, hp]

/-- Where an item acts, INIT does what `initAct` says. -/
theorem exec_init_acting {s : State} (hp : s.phase = .idle ∨ s.phase = .span ∨ s.phase = .payload) :
    exec .init s = .next (initAct s) := by
  rcases hp with hp | hp | hp
  all_goals exact State.consuming_open (by simp [hp]) (by simp [hp])

/-- Settles O23: the three branches of `initAct`, and the discard in phase `FAULT`. -/
theorem initMeaning : Obligations.InitMeaning := by
  refine ⟨by decide, fun s => ⟨fun hp hv => ?_, fun hp hv => ?_, fun hp => ?_, fun hp => ?_⟩⟩
  · rw [exec_init_acting (.inl hp), initAct_idle_invalid hp hv]
    rfl
  · rw [exec_init_acting (.inl hp), initAct_idle_valid hp hv]
  · rw [exec_init_acting (.inr hp), initAct_open hp]
    rfl
  · exact State.consuming_fault hp

/-- Outside phase `INIT` a legal item at the head of `IN` is removed and acts. -/
theorem step_of_item {s : State} {p : Item} {rest : List Item} {i : Instr} (hp : s.phase ≠ .init) (hin : s.inp = p :: rest)
    (hd : decode p = some i) : step s = exec i (s.dropHead rest) := by
  rw [step, enabled_consume hp, fetch_item hin hd]

theorem step_of_init {s : State} {p : Item} {rest : List Item} (hp : s.phase = .idle) (hv : s.tv = false)
    (hin : s.inp = p :: rest) (hd : decode p = some .init) : step s = .next (s.dropHead rest).beginFill := by
  rw [step_of_item (by simp [hp]) hin hd, exec_init_acting (.inl (by exact hp)), initAct_idle_invalid (by exact hp) (by exact hv)]

/-- Settles O22: the step that consumes INIT, then the whole fill. -/
theorem fillEqualsOneStepFill : Obligations.FillEqualsOneStepFill := by
  intro s p rest hw hp hv hin hd
  rw [runSteps_succ (step_of_init hp hv hin hd), runSteps_fill (by exact hw) (by rfl) (by rfl), hp]
  rfl

/-! ### The frame of each instruction -/

/-- What holds of the state, and of the state on which the item has acted, holds after the gate (R163, R164). -/
theorem State.consuming_next {P : State → Prop} {s t : State} {act : State → State} (h : s.consuming act = .next t)
    (hs : P s) (hact : P (act s)) : P t := by
  obtain ⟨-, ⟨-, rfl⟩ | ⟨-, rfl⟩⟩ := State.consuming_cases h
  · exact hs
  · exact hact

theorem initAct_crc_cnt_out (s : State) : (initAct s).crc = s.crc ∧ (initAct s).cnt = s.cnt ∧ (initAct s).out = s.out := by
  unfold initAct
  split
  · split <;> exact ⟨rfl, rfl, rfl⟩
  all_goals exact ⟨rfl, rfl, rfl⟩

theorem spanAct_cnt_idx_out (s : State) : (spanAct s).cnt = s.cnt ∧ (spanAct s).idx = s.idx ∧ (spanAct s).out = s.out := by
  unfold spanAct
  split
  · split <;> exact ⟨rfl, rfl, rfl⟩
  all_goals exact ⟨rfl, rfl, rfl⟩

theorem endAct_crc_cnt_idx (s : State) : (endAct s).crc = s.crc ∧ (endAct s).cnt = s.cnt ∧ (endAct s).idx = s.idx := by
  unfold endAct
  split <;> exact ⟨rfl, rfl, rfl⟩

theorem chunkAct_idx (tag : Tag) (len : Length) (s : State) : (chunkAct tag len s).idx = s.idx := by
  unfold chunkAct
  split
  · split
    · split
      · rfl
      · exact State.openChunk_idx s tag (lenLow len)
    · rfl
  all_goals rfl

theorem dataAct_idx (b : Byte) (s : State) : (dataAct b s).idx = s.idx := by
  unfold dataAct
  split
  · rfl
  · exact payloadStep_idx b s
  all_goals rfl

theorem dataAct_cnt_out (b : Byte) {s : State} (hp : s.phase ≠ .payload) :
    (dataAct b s).cnt = s.cnt ∧ (dataAct b s).out = s.out := by
  unfold dataAct
  split
  · exact ⟨rfl, rfl⟩
  · next hpay => exact absurd hpay hp
  all_goals exact ⟨rfl, rfl⟩

theorem execAbort_next {s t : State} (h : execAbort s = .next t) : t = s.toIdle := by
  unfold execAbort at h
  split at h
  · cases h
  all_goals cases h; rfl

/-- Settles O35: an item is discarded or acts, and each act leaves its registers alone. -/
theorem frameOfEachInstruction : Obligations.FrameOfEachInstruction := by
  intro s t
  refine ⟨fun h => ?_, fun h => ?_, fun h => ?_, fun h => ?_, fun tag len h => ?_, fun b h => ⟨?_, fun hp => ?_⟩⟩
  · exact State.consuming_next (P := fun u => u.crc = s.crc ∧ u.cnt = s.cnt ∧ u.out = s.out) h
      ⟨rfl, rfl, rfl⟩ (initAct_crc_cnt_out s)
  · exact State.consuming_next (P := fun u => u.cnt = s.cnt ∧ u.idx = s.idx ∧ u.out = s.out) h
      ⟨rfl, rfl, rfl⟩ (spanAct_cnt_idx_out s)
  · exact State.consuming_next (P := fun u => u.crc = s.crc ∧ u.cnt = s.cnt ∧ u.idx = s.idx) h
      ⟨rfl, rfl, rfl⟩ (endAct_crc_cnt_idx s)
  · rw [execAbort_next h]
    exact ⟨rfl, rfl, rfl, rfl⟩
  · exact State.consuming_next (P := fun u => u.idx = s.idx) h rfl (chunkAct_idx tag len s)
  · exact State.consuming_next (P := fun u => u.idx = s.idx) h rfl (dataAct_idx b s)
  · exact State.consuming_next (P := fun u => u.cnt = s.cnt ∧ u.out = s.out) h ⟨rfl, rfl⟩ (dataAct_cnt_out b hp)

/-! ### The reducer is linear and injective (R110) -/

theorem reduce1_of_even {c : Word} (h : c.getLsbD 0 = false) : reduce1 c = c >>> 1 := by
  rw [reduce1, h, if_neg Bool.false_ne_true]

theorem reduce1_of_odd {c : Word} (h : c.getLsbD 0 = true) : reduce1 c = (c >>> 1) ^^^ Config.poly := by
  rw [reduce1, h, if_pos rfl]

theorem reduce1_xor (a b : Word) : reduce1 (a ^^^ b) = reduce1 a ^^^ reduce1 b := by
  have hbit : (a ^^^ b).getLsbD 0 = (a.getLsbD 0 ^^ b.getLsbD 0) := BitVec.getLsbD_xor
  have hshift : (a ^^^ b) >>> 1 = (a >>> 1) ^^^ (b >>> 1) := BitVec.ushiftRight_xor_distrib a b 1
  cases ha : a.getLsbD 0 <;> cases hb : b.getLsbD 0 <;> rw [ha, hb] at hbit
  · rw [reduce1_of_even hbit, reduce1_of_even ha, reduce1_of_even hb, hshift]
  · rw [reduce1_of_odd hbit, reduce1_of_even ha, reduce1_of_odd hb, hshift, BitVec.xor_assoc]
  · rw [reduce1_of_odd hbit, reduce1_of_odd ha, reduce1_of_even hb, hshift]
    ac_rfl
  · rw [reduce1_of_even hbit, reduce1_of_odd ha, reduce1_of_odd hb, hshift]
    calc (a >>> 1) ^^^ (b >>> 1)
        = (a >>> 1) ^^^ (b >>> 1) ^^^ (Config.poly ^^^ Config.poly) := by rw [BitVec.xor_self, BitVec.xor_zero]
      _ = (a >>> 1) ^^^ Config.poly ^^^ ((b >>> 1) ^^^ Config.poly) := by ac_rfl

theorem reduce8_xor (a b : Word) : reduce8 (a ^^^ b) = reduce8 a ^^^ reduce8 b := by
  simp only [reduce8, reduce1_xor]

theorem tableRef_xor (a b : Byte) : tableRef (a ^^^ b) = tableRef a ^^^ tableRef b := by
  rw [tableRef, BitVec.setWidth_xor, reduce8_xor, tableRef, tableRef]

/-- The bit shifted out comes back at the top, where the generator has its highest bit. -/
theorem reduce1_getLsbD_top (c : Word) : (reduce1 c).getLsbD 31 = c.getLsbD 0 := by
  cases h : c.getLsbD 0
  · rw [reduce1_of_even h]
    simp
  · rw [reduce1_of_odd h]
    simp [Config.poly]

theorem eq_zero_of_reduce1_eq_zero {c : Word} (h : reduce1 c = 0#32) : c = 0#32 := by
  have hbit : c.getLsbD 0 = false := by rw [← reduce1_getLsbD_top, h, BitVec.getLsbD_zero]
  rw [reduce1_of_even hbit] at h
  apply BitVec.eq_of_getLsbD_eq
  intro i hi
  cases i with
  | zero => exact hbit
  | succ i =>
    have hshift : (c >>> 1).getLsbD i = false := by rw [h, BitVec.getLsbD_zero]
    simpa [Nat.add_comm] using hshift

theorem reduce1_injective : Function.Injective reduce1 := fun a b h => by
  have hz : reduce1 (a ^^^ b) = 0#32 := by rw [reduce1_xor, h, BitVec.xor_self]
  exact BitVec.xor_eq_zero_iff.mp (eq_zero_of_reduce1_eq_zero hz)

theorem reduce8_injective : Function.Injective reduce8 :=
  reduce1_injective.iterate 8

theorem tableRef_injective : Function.Injective tableRef := fun a b h => by
  have hw : a.setWidth 32 = b.setWidth 32 := reduce8_injective h
  bv_omega

/-- An exclusive-or of entries is the entry at the exclusive-or of the indices. -/
theorem foldl_xor_tableRef (l : List Nat) (c : Byte) :
    l.foldl (fun x k => x ^^^ tableRef (BitVec.ofNat 8 k)) (tableRef c) =
      tableRef (l.foldl (fun x k => x ^^^ BitVec.ofNat 8 k) c) :=
  List.foldl_hom tableRef fun x k => (tableRef_xor x (BitVec.ofNat 8 k)).symm

theorem tableRef_zero : tableRef 0#8 = 0#32 := by decide

/-- R110 (d): the indices cancel out, and so do the entries. -/
theorem xor_tableRef_all : (List.range 256).foldl (fun x k => x ^^^ tableRef (BitVec.ofNat 8 k)) 0#32 = 0#32 := by
  have hidx : (List.range 256).foldl (fun x k => x ^^^ BitVec.ofNat 8 k) 0#8 = 0#8 := by decide +kernel
  calc (List.range 256).foldl (fun x k => x ^^^ tableRef (BitVec.ofNat 8 k)) 0#32
      = (List.range 256).foldl (fun x k => x ^^^ tableRef (BitVec.ofNat 8 k)) (tableRef 0#8) := by rw [tableRef_zero]
    _ = tableRef 0#8 := by rw [foldl_xor_tableRef, hidx]
    _ = 0#32 := tableRef_zero

/-- The register after each byte of "IEND" (R127). -/
theorem crcUpdateRef_iend :
    crcUpdateRef 0xFFFFFFFF#32 0x49#8 = 0x22FDE946#32 ∧ crcUpdateRef 0x22FDE946#32 0x45#8 = 0x992BAC53#32 ∧
    crcUpdateRef 0x992BAC53#32 0x4E#8 = 0x639F4775#32 ∧ crcUpdateRef 0x639F4775#32 0x44#8 = 0x51BD9F7D#32 := by
  refine ⟨?_, ?_, ?_, ?_⟩ <;> decide

/-- R110 (f), byte by byte. -/
theorem crc32_iend : crc32 [0x49#8, 0x45#8, 0x4E#8, 0x44#8] = 0xAE426082#32 := by
  obtain ⟨hI, hE, hN, hD⟩ := crcUpdateRef_iend
  simp only [crc32, Config.initV, List.foldl_cons, List.foldl_nil, hI, hE, hN, hD]
  decide

/-- Settles O44: (a) to (c) and (f) are values, (d) and (e) follow from the reducer being linear and injective. -/
theorem referenceTableChecks : Obligations.ReferenceTableChecks :=
  ⟨tableRef_zero, by decide, by decide, by decide, fun _ _ h => tableRef_injective h, xor_tableRef_all, reduce8_xor, tableRef_xor,
    crc32_iend, by decide⟩

end Sys2Proof.Machine
end

section
/-! PROOFS. The family of the checksum (R120 to R127): the lookup step and the reducer that it replaces, SPAN, DATA and END in every
phase, and the run of a whole checksum, which no fault interrupts. -/

namespace Sys2Proof.Machine

/-! ### The lookup step (R120) -/

theorem lookupIndex_eq_xor (r : Word) (b : Byte) : lookupIndex r b = r.extractLsb' 0 8 ^^^ b := by
  have hbyte : (b.setWidth 32).extractLsb' 0 8 = b := by
    rw [← BitVec.setWidth_eq_extractLsb' (by decide), BitVec.setWidth_setWidth_of_le b (by decide), BitVec.setWidth_eq]
  rw [lookupIndex, BitVec.extractLsb'_xor, hbyte]

theorem lookupIndex_setWidth (r : Word) (b : Byte) : (lookupIndex r b).setWidth 32 = (r ^^^ b.setWidth 32) &&& 0xFF#32 := by
  apply BitVec.eq_of_toNat_eq
  have hmask := Nat.and_two_pow_sub_one_eq_mod (r ^^^ b.setWidth 32).toNat 8
  have hlt := (lookupIndex r b).isLt
  rw [BitVec.toNat_setWidth, Nat.mod_eq_of_lt (by omega), BitVec.toNat_and]
  simpa [lookupIndex] using hmask.symm

/-- The register shifted right by 8 has no bit in the top byte. -/
theorem topByte_xor_shiftRight (x r : Word) : (x ^^^ (r >>> 8)).extractLsb' 24 8 = x.extractLsb' 24 8 := by
  have htop : (r >>> 8).extractLsb' 24 8 = 0#8 := by
    apply BitVec.eq_of_getLsbD_eq
    intro i hi
    simp [BitVec.getLsbD_of_ge r (8 + (24 + i)) (by omega)]
  rw [BitVec.extractLsb'_xor, htop, BitVec.xor_zero]

/-- Settles O45: the index is the one that `crc_update` reads at. -/
theorem lookupStep : Obligations.LookupStep := fun _ r b =>
  ⟨lookupIndex r b, lookupIndex_eq_xor r b, lookupIndex_setWidth r b, rfl, topByte_xor_shiftRight _ r⟩

/-! ### The lookup step is the reducer (R122) -/

/-- While the bits that leave the register are 0, the reducer only shifts. -/
theorem reduce1_iterate_of_low_zero {c : Word} {k : Nat} (h : ∀ i < k, c.getLsbD i = false) : reduce1^[k] c = c >>> k := by
  induction k with
  | zero => rfl
  | succ k ih =>
    have hbit : (c >>> k).getLsbD 0 = false := by simpa using h k (Nat.lt_succ_self k)
    rw [Function.iterate_succ_apply', ih fun i hi => h i (Nat.lt_succ_of_lt hi), reduce1_of_even hbit, BitVec.shiftRight_add]

theorem byte_shiftRight (b : Byte) : b.setWidth 32 >>> 8 = 0#32 := by
  apply BitVec.eq_of_getLsbD_eq
  intro i hi
  simp

/-- By linearity the low byte goes through the table, and the rest is only shifted. -/
theorem reduce8_eq_tableRef_xor (c : Word) : reduce8 c = tableRef (c.extractLsb' 0 8) ^^^ (c >>> 8) := by
  have hlow : ∀ i < 8, ((c.extractLsb' 0 8).setWidth 32 ^^^ c).getLsbD i = false := fun i hi => by
    simp [hi, hi.trans (by decide : 8 < 32)]
  have hrest : reduce8 ((c.extractLsb' 0 8).setWidth 32 ^^^ c) = c >>> 8 :=
    calc reduce8 ((c.extractLsb' 0 8).setWidth 32 ^^^ c)
        = ((c.extractLsb' 0 8).setWidth 32 ^^^ c) >>> 8 := reduce1_iterate_of_low_zero hlow
      _ = c >>> 8 := by rw [BitVec.ushiftRight_xor_distrib, byte_shiftRight, BitVec.zero_xor]
  rw [← hrest, reduce8_xor, tableRef, ← BitVec.xor_assoc, BitVec.xor_self, BitVec.zero_xor]

theorem crcUpdateRef_eq_reduce8 (r : Word) (b : Byte) : crcUpdateRef r b = reduce8 (r ^^^ b.setWidth 32) := by
  rw [reduce8_eq_tableRef_xor, BitVec.ushiftRight_xor_distrib, byte_shiftRight, BitVec.xor_zero, crcUpdateRef, lookupIndex]

/-- Settles O46: the reducer is linear, and shifts what is above the low byte. -/
theorem lookupStepEqualsReducer : Obligations.LookupStepEqualsReducer := by
  refine ⟨fun s r b h => ?_, fun l => ?_⟩
  · rw [State.crcUpdate_ref h, crcUpdateRef_eq_reduce8]
  · have hstep : crcUpdateRef = fun r b => reduce8 (r ^^^ b.setWidth 32) := funext₂ crcUpdateRef_eq_reduce8
    rw [crc32, complement_eq_not, hstep]
    rfl

/-- Settles O47, byte by byte. -/
theorem goldenChecksums : Obligations.GoldenChecksums := ⟨by decide, crc32_iend, crcUpdateRef_iend⟩

/-! ### SPAN (R123) -/

/-- Where an item acts (R164), the gate answers what its act leaves. -/
theorem State.consuming_acting {s t : State} {f : State → State} (hp : s.phase = .idle ∨ s.phase = .span ∨ s.phase = .payload)
    (hact : f s = t) : s.consuming f = .next t := by
  subst hact
  rcases hp with hp | hp | hp
  all_goals exact State.consuming_open (by simp [hp]) (by simp [hp])

theorem exec_span_valid {s : State} (hp : s.phase = .idle) (hv : s.tv = true) :
    exec .span s = .next { s with crc := Config.initV, phase := .span } := by
  have hact : spanAct s = (s.setCrc Config.initV).setPhase .span := by simp [spanAct, hp, hv]
  exact State.consuming_acting (.inl hp) hact

theorem exec_span_invalid {s : State} (hp : s.phase = .idle) (hv : s.tv = false) :
    exec .span s = .next (s.raise .tableNotReady) := by
  have hact : spanAct s = s.raise .tableNotReady := by simp [spanAct, hp, hv]
  exact State.consuming_acting (.inl hp) hact

theorem exec_span_open {s : State} (hp : s.phase = .span ∨ s.phase = .payload) :
    exec .span s = .next (s.raise .sequenceError) := by
  have hact : spanAct s = s.raise .sequenceError := by
    rcases hp with hp | hp
    · simp [spanAct, hp]
    · simp [spanAct, hp]
  exact State.consuming_acting (.inr hp) hact

/-- Settles O24: the three branches of SPAN's act, and the discard in phase `FAULT`. -/
theorem spanMeaning : Obligations.SpanMeaning :=
  ⟨by decide, fun _ => ⟨exec_span_valid, exec_span_invalid, exec_span_open, State.consuming_fault⟩⟩

/-! ### END (R125) -/

theorem exec_endSpan_span {s : State} (hp : s.phase = .span) :
    exec .endSpan s = .next { s with out := s.out ++ [.word (~~~s.crc)], phase := .idle } := by
  have hact : endAct s = (s.emit [.word (~~~s.crc)]).setPhase .idle := by simp [endAct, hp, complement_eq_not]
  exact State.consuming_acting (.inr (.inl hp)) hact

theorem exec_endSpan_no_span {s : State} (hp : s.phase = .idle ∨ s.phase = .payload) :
    exec .endSpan s = .next (s.raise .sequenceError) := by
  have hact : endAct s = s.raise .sequenceError := by
    rcases hp with hp | hp
    · simp [endAct, hp]
    · simp [endAct, hp]
  exact State.consuming_acting (hp.imp_right .inr) hact

/-- Settles O26: the two branches of END's act, and the discard in phase `FAULT`. -/
theorem endMeaning : Obligations.EndMeaning :=
  ⟨by decide, fun _ => ⟨exec_endSpan_span, exec_endSpan_no_span, State.consuming_fault⟩⟩

/-! ### DATA (R124, R143) -/

theorem decode_data (b : Byte) : decode (b.setWidth 129) = some (.data b) := by
  have henc : encode (.data b) = b.setWidth 129 := by rw [encode, Item.field, BitVec.shiftLeft_zero]
  rw [← henc, decode_encode]

theorem exec_data_span (b : Byte) {s : State} (hp : s.phase = .span) :
    exec (.data b) s = .next { s with crc := s.crcUpdate s.crc b } := by
  have hact : dataAct b s = s.setCrc (s.crcUpdate s.crc b) := by simp [dataAct, hp]
  exact State.consuming_acting (.inr (.inl hp)) hact

theorem exec_data_payload (b : Byte) {s : State} (hp : s.phase = .payload) : exec (.data b) s = .next (payloadStep b s) := by
  have hact : dataAct b s = payloadStep b s := by simp [dataAct, hp]
  exact State.consuming_acting (.inr (.inr hp)) hact

theorem exec_data_idle (b : Byte) {s : State} (hp : s.phase = .idle) : exec (.data b) s = .next (s.raise .sequenceError) := by
  have hact : dataAct b s = s.raise .sequenceError := by simp [dataAct, hp]
  exact State.consuming_acting (.inl hp) hact

/-- A payload byte with another one owed behind it. -/
theorem exec_data_payload_more (b : Byte) {s : State} (hp : s.phase = .payload) (hc : s.cnt ≠ 1#32) :
    exec (.data b) s =
      .next { s with crc := s.crcUpdate s.crc b, cnt := s.cnt - 1#32, out := s.out ++ [.byte b] } := by
  rw [exec_data_payload b hp, payloadStep_more b hc, hp]

/-- The last payload byte owed. -/
theorem exec_data_payload_last (b : Byte) {s : State} (hp : s.phase = .payload) (hc : s.cnt = 1#32) :
    exec (.data b) s =
      .next { s with
        crc := s.crcUpdate s.crc b, cnt := 0#32, phase := .idle,
        out := s.out ++ [.byte b] ++ byteItems (be32 (~~~(s.crcUpdate s.crc b))) } := by
  rw [exec_data_payload b hp, payloadStep_last b hc, complement_eq_not]

/-- Settles O25: DATA's act in each phase, the payload step by whether the byte is the last one owed. -/
theorem dataMeaning : Obligations.DataMeaning := by
  refine fun b => ⟨decode_data b, fun s =>
    ⟨exec_data_span b, fun hp hc => ?_, exec_data_payload_last b, exec_data_idle b, State.consuming_fault⟩⟩
  exact ⟨s.cnt - 1#32, exec_data_payload_more b hp (by bv_omega), by bv_omega⟩

/-! ### Runs without a fault -/

/-- `k` steps lead from `s` to `t`, and the block is in phase `FAULT` neither before nor after any of them. -/
def RunsWithoutFault (k : Nat) (s t : State) : Prop :=
  (∀ j ≤ k, ∃ u, runSteps j s = .next u ∧ u.phase ≠ .fault) ∧ runSteps k s = .next t

theorem RunsWithoutFault.zero {s : State} (hp : s.phase ≠ .fault) : RunsWithoutFault 0 s s :=
  ⟨fun j hj => ⟨s, by rw [Nat.le_zero.mp hj, runSteps_zero], hp⟩, runSteps_zero s⟩

theorem RunsWithoutFault.cons {k : Nat} {s t u : State} (hp : s.phase ≠ .fault) (hs : step s = .next t)
    (h : RunsWithoutFault k t u) : RunsWithoutFault (k + 1) s u := by
  obtain ⟨hsteps, hend⟩ := h
  refine ⟨fun j hj => ?_, (runSteps_succ hs).trans hend⟩
  cases j with
  | zero => exact ⟨s, runSteps_zero s, hp⟩
  | succ j =>
    rw [runSteps_succ hs]
    exact hsteps j (Nat.le_of_succ_le_succ hj)

theorem RunsWithoutFault.append {j k : Nat} {s t u : State} (h : RunsWithoutFault j s t) (h' : RunsWithoutFault k t u) :
    RunsWithoutFault (j + k) s u := by
  obtain ⟨hsteps, hend⟩ := h
  obtain ⟨hsteps', hend'⟩ := h'
  refine ⟨fun i hi => ?_, (runSteps_add hend k).trans hend'⟩
  rcases Nat.le_total i j with hij | hji
  · exact hsteps i hij
  · obtain ⟨i', rfl⟩ := Nat.exists_eq_add_of_le hji
    rw [runSteps_add hend]
    exact hsteps' i' (by omega)

/-! ### The run of a checksum (R126) -/

theorem step_of_instr {s : State} {i : Instr} {rest : List Item} (hp : s.phase ≠ .init) (hin : s.inp = encode i :: rest) :
    step s = exec i (s.dropHead rest) :=
  step_of_item hp hin (decode_encode i)

theorem step_span {s : State} {rest : List Item} (hp : s.phase = .idle) (hv : s.tv = true) (hin : s.inp = encode .span :: rest) :
    step s = .next { s with inp := rest, crc := Config.initV, phase := .span } := by
  rw [step_of_instr (by simp [hp]) hin, exec_span_valid (by exact hp) (by exact hv)]
  rfl

theorem step_data_span {s : State} {b : Byte} {rest : List Item} (hp : s.phase = .span)
    (hin : s.inp = encode (.data b) :: rest) : step s = .next { s with inp := rest, crc := s.crcUpdate s.crc b } := by
  rw [step_of_instr (by simp [hp]) hin, exec_data_span b (by exact hp)]
  rfl

theorem step_endSpan {s : State} {rest : List Item} (hp : s.phase = .span) (hin : s.inp = encode .endSpan :: rest) :
    step s = .next { s with inp := rest, out := s.out ++ [.word (~~~s.crc)], phase := .idle } := by
  rw [step_of_instr (by simp [hp]) hin, exec_endSpan_span (by exact hp)]
  rfl

theorem runs_span_bytes (l : List Byte) (rest : List Item) {s : State} (hp : s.phase = .span)
    (hin : s.inp = itemsOf (bytesProgram l) ++ rest) :
    RunsWithoutFault l.length s { s with inp := rest, crc := s.crcOver s.crc l } := by
  induction l generalizing s with
  | nil =>
    rw [State.crcOver_nil, ← show s.inp = rest from hin]
    exact .zero (by simp [hp])
  | cons b l ih => exact .cons (by simp [hp]) (step_data_span hp hin) (ih hp rfl)

theorem itemsOf_checksumProgram (l : List Byte) (rest : List Item) :
    itemsOf (checksumProgram l) ++ rest = encode .span :: (itemsOf (bytesProgram l) ++ encode .endSpan :: rest) := by
  simp [itemsOf, checksumProgram]

/-- The whole checksum, over whatever the table holds: open the span, advance over the bytes, close it. -/
theorem runs_checksum {l : List Byte} {rest : List Item} {s : State} (hp : s.phase = .idle) (hv : s.tv = true)
    (hin : s.inp = itemsOf (checksumProgram l) ++ rest) :
    RunsWithoutFault (l.length + 2) s
      { s with
        inp := rest, out := s.out ++ [.word (~~~(s.crcOver Config.initV l))], crc := s.crcOver Config.initV l } := by
  have hopen := step_span hp hv (hin.trans (itemsOf_checksumProgram l rest))
  have hbytes := runs_span_bytes l (encode .endSpan :: rest)
    (s := { s with inp := itemsOf (bytesProgram l) ++ encode .endSpan :: rest, crc := Config.initV, phase := .span }) rfl rfl
  rw [hp]
  exact .cons (by simp [hp]) hopen (hbytes.append (.cons nofun (step_endSpan rfl rfl) (.zero nofun)))

/-- Settles O51: the run of the checksum, over the reference table that the invariant gives. -/
theorem checksumContract : Obligations.ChecksumContract := by
  intro s l rest h hp hv hin
  obtain ⟨hsteps, hend⟩ := runs_checksum hp hv hin
  have hcrc : s.crcOver Config.initV l = ~~~(crc32 l) := by
    rw [State.crcOver, State.crcUpdate_ref (h.validTable hv), crc32, complement_eq_not, BitVec.not_not]
  rw [hcrc, BitVec.not_not] at hend
  exact ⟨hsteps, hend, h.err_eq_none (by simp [hp])⟩

end Sys2Proof.Machine
end

section
/-! PROOFS. The family of the chunk framer (R140 to R150): the serializer and the layout of a chunk, CHUNK in every phase and the fault
that is its alone, and the run of a whole chunk, which no fault interrupts. -/

namespace Sys2Proof.Machine

/-! ### The serializer (R141) -/

@[simp] theorem be32_length (v : Word) : (be32 v).length = 4 := rfl

@[simp] theorem tagBytes_length (t : Tag) : (tagBytes t).length = 4 := rfl

@[simp] theorem byteItems_append (l m : List Byte) : byteItems (l ++ m) = byteItems l ++ byteItems m := List.map_append

theorem bigEndian_be32 (v : Word) : bigEndian (be32 v) = v.toNat := by
  have hlt := v.isLt
  simp only [bigEndian, be32, List.foldl_cons, List.foldl_nil, BitVec.extractLsb'_toNat, Nat.shiftRight_eq_div_pow]
  omega

/-- Settles O48: the four base-256 digits of the value, and four fixed words evaluated. -/
theorem serializerIsBigEndian : Obligations.SerializerIsBigEndian :=
  ⟨fun v => ⟨rfl, bigEndian_be32 v⟩, fun _ _ => rfl, by decide, by decide, by decide, by decide⟩

/-! ### The layout of a chunk (R140, R145 to R147) -/

theorem chunkBytes_length (t : Tag) (p : List Byte) : (chunkBytes t p).length = p.length + 12 := by
  simp only [chunkBytes, List.length_append, be32_length, tagBytes_length]
  omega

theorem chunkBytes_eq (t : Tag) (p : List Byte) :
    chunkBytes t p = be32 (BitVec.ofNat 32 p.length) ++ (tagBytes t ++ (p ++ be32 (crc32 (tagBytes t ++ p)))) := by
  simp [chunkBytes]

theorem chunkBytes_take_four (t : Tag) (p : List Byte) : (chunkBytes t p).take 4 = be32 (BitVec.ofNat 32 p.length) := by
  rw [chunkBytes_eq]
  exact List.take_left' (be32_length _)

theorem chunkBytes_drop_four (t : Tag) (p : List Byte) :
    (chunkBytes t p).drop 4 = tagBytes t ++ (p ++ be32 (crc32 (tagBytes t ++ p))) := by
  rw [chunkBytes_eq]
  exact List.drop_left' (be32_length _)

theorem chunkBytes_drop_eight (t : Tag) (p : List Byte) :
    (chunkBytes t p).drop 8 = p ++ be32 (crc32 (tagBytes t ++ p)) := by
  rw [← List.drop_drop (i := 4) (j := 4), chunkBytes_drop_four]
  exact List.drop_left' (tagBytes_length t)

theorem chunkBytes_drop_payload (t : Tag) (p : List Byte) :
    (chunkBytes t p).drop (p.length + 8) = be32 (crc32 (tagBytes t ++ p)) := by
  rw [Nat.add_comm, ← List.drop_drop, chunkBytes_drop_eight, List.drop_left]

/-- Settles O49: the four parts of the chunk, each cut out at its place; a length that fits is read back from its field. -/
theorem chunkLayoutAndSize : Obligations.ChunkLayoutAndSize := by
  intro t p hlen
  refine ⟨chunkBytes_length t p, ?_, ?_, ?_, ?_⟩
  · rw [chunkBytes_take_four, bigEndian_be32, BitVec.toNat_ofNat, Nat.mod_eq_of_lt (by omega)]
  · rw [chunkBytes_drop_four]
    exact List.take_left' (tagBytes_length t)
  · rw [chunkBytes_drop_eight, List.take_left]
  · rw [chunkBytes_drop_payload, bigEndian_be32]
    rfl

/-! ### The length operand (R142, R148) -/

theorem lenTooLarge_iff {len : Length} : lenTooLarge len = true ↔ 0xFFFFFFFF < len.toNat := by
  simp [lenTooLarge, Config.lenMax, BitVec.lt_def]

theorem lenTooLarge_eq_false_iff {len : Length} : lenTooLarge len = false ↔ len.toNat ≤ 0xFFFFFFFF := by
  rw [← Bool.not_eq_true, lenTooLarge_iff, Nat.not_lt]

theorem lenLow_eq_setWidth (len : Length) : lenLow len = len.setWidth 32 := (BitVec.setWidth_eq_extractLsb' (by decide)).symm

theorem highHalf_ne_zero_iff (len : Length) : 0xFFFFFFFF < len.toNat ↔ len.extractLsb' 32 32 ≠ 0#32 := by
  have hlt := len.isLt
  rw [← BitVec.toNat_ne_iff_ne, BitVec.extractLsb'_toNat, Nat.shiftRight_eq_div_pow, BitVec.toNat_ofNat]
  omega

/-! ### CHUNK (R142) -/

/-- The item that R71 and R73 lay out for CHUNK. -/
theorem decode_chunk (t : Tag) (len : Length) :
    decode (1#129 <<< 128 ||| 0x04#129 <<< 120 ||| t.t0.setWidth 129 <<< 88 ||| t.t1.setWidth 129 <<< 80 |||
      t.t2.setWidth 129 <<< 72 ||| t.t3.setWidth 129 <<< 64 ||| len.setWidth 129) = some (.chunk t len) := by
  have hlow : Item.field len 0 = len.setWidth 129 := BitVec.shiftLeft_zero _
  rw [← hlow]
  exact decode_encode (.chunk t len)

theorem exec_chunk_invalid (t : Tag) (len : Length) {s : State} (hp : s.phase = .idle) (hv : s.tv = false) :
    exec (.chunk t len) s = .next (s.raise .tableNotReady) := by
  have hact : chunkAct t len s = s.raise .tableNotReady := by simp [chunkAct, hp, hv]
  exact State.consuming_acting (.inl hp) hact

theorem exec_chunk_tooLarge (t : Tag) {len : Length} {s : State} (hp : s.phase = .idle) (hv : s.tv = true)
    (hlen : 0xFFFFFFFF < len.toNat) : exec (.chunk t len) s = .next (s.raise .payloadTooLarge) := by
  have hact : chunkAct t len s = s.raise .payloadTooLarge := by simp [chunkAct, hp, hv, lenTooLarge_iff.mpr hlen]
  exact State.consuming_acting (.inl hp) hact

theorem exec_chunk_fits (t : Tag) {len : Length} {s : State} (hp : s.phase = .idle) (hv : s.tv = true)
    (hlen : len.toNat ≤ 0xFFFFFFFF) : exec (.chunk t len) s = .next (s.openChunk t (lenLow len)) := by
  have hact : chunkAct t len s = s.openChunk t (lenLow len) := by
    simp [chunkAct, hp, hv, lenTooLarge_eq_false_iff.mpr hlen]
  exact State.consuming_acting (.inl hp) hact

theorem exec_chunk_open (t : Tag) (len : Length) {s : State} (hp : s.phase = .span ∨ s.phase = .payload) :
    exec (.chunk t len) s = .next (s.raise .sequenceError) := by
  have hact : chunkAct t len s = s.raise .sequenceError := by
    rcases hp with hp | hp
    · simp [chunkAct, hp]
    · simp [chunkAct, hp]
  exact State.consuming_acting (.inr hp) hact

/-- Settles O27: CHUNK's act in each phase, and in `IDLE` by the length: too large, none, or some payload owed. -/
theorem chunkMeaning : Obligations.ChunkMeaning := by
  refine fun t len => ⟨decode_chunk t len, fun s => ⟨exec_chunk_invalid t len, exec_chunk_tooLarge t, fun hp hv hz => ?_,
    fun hp hv hpos hlen => ?_, exec_chunk_open t len, State.consuming_fault⟩⟩
  · obtain rfl : len = 0#64 := BitVec.eq_of_toNat_eq hz
    rw [exec_chunk_fits t hp hv (by decide), show lenLow 0#64 = 0#32 by decide, State.openChunk_empty, complement_eq_not, hp]
    rfl
  · have hn : len.setWidth 32 ≠ 0#32 := by bv_omega
    rw [exec_chunk_fits t hp hv hlen, lenLow_eq_setWidth, State.openChunk_owing s t hn]
    rfl

/-! ### PayloadTooLarge (R148, R201) -/

/-- An instruction that writes `PayloadTooLarge` to `ERR` is a CHUNK that found the table valid and its length too large. -/
theorem chunk_of_payloadTooLarge {i : Instr} {s t : State} (hx : exec i s = .next t) (hs : s.err ≠ .payloadTooLarge)
    (ht : t.err = .payloadTooLarge) :
    s.phase = .idle ∧ s.tv = true ∧ ∃ tag len, i = .chunk tag len ∧ lenTooLarge len = true := by
  obtain ⟨-, ⟨rfl, -⟩ | ⟨-, rfl⟩ | ⟨e, rfl, -, -, -, -, hbig, -, -⟩ | ⟨-, -, -, rfl⟩ | ⟨-, -, -, rfl⟩ | ⟨-, -, rfl⟩ |
    ⟨tag, len, -, -, -, -, rfl⟩ | ⟨b, -, -, rfl⟩ | ⟨b, -, -, rfl⟩⟩ := exec_cases hx
  case inr.inl => cases ht
  case inr.inr.inl => exact hbig ht
  all_goals exact absurd (by simpa using ht) hs

/-- Settles O31: CHUNK raises it there, and an `ERR` that changed to it tells that CHUNK did. -/
theorem payloadTooLargeExactly : Obligations.PayloadTooLargeExactly := by
  refine ⟨rfl, fun i s hs => ⟨fun hx => ?_, ?_⟩, highHalf_ne_zero_iff⟩
  · obtain ⟨hp, hv, t, len, rfl, hlen⟩ := chunk_of_payloadTooLarge hx hs rfl
    exact ⟨hp, hv, t, len, rfl, lenTooLarge_iff.mp hlen⟩
  · rintro ⟨hp, hv, t, len, rfl, hlen⟩
    exact exec_chunk_tooLarge t hp hv hlen

/-! ### The run of a chunk (R144) -/

theorem step_chunk {s : State} {t : Tag} {len : Length} {rest : List Item} (hp : s.phase = .idle) (hv : s.tv = true)
    (hlen : len.toNat ≤ 0xFFFFFFFF) (hin : s.inp = encode (.chunk t len) :: rest) :
    step s = .next ((s.dropHead rest).openChunk t (lenLow len)) := by
  rw [step_of_instr (by simp [hp]) hin, exec_chunk_fits t (by exact hp) (by exact hv) hlen]

theorem step_data_payload {s : State} {b : Byte} {rest : List Item} (hp : s.phase = .payload)
    (hin : s.inp = encode (.data b) :: rest) : step s = .next (payloadStep b (s.dropHead rest)) := by
  rw [step_of_instr (by simp [hp]) hin, exec_data_payload b (by exact hp)]

/-- The payload, from the state in which its bytes are owed: opening a chunk and passing a byte both end in `closeIfPaid`, so the chunk
is closed at once where no byte is owed and by the last byte elsewhere. -/
theorem runs_payload (l : List Byte) (rest : List Item) {s : State} (hlen : l.length ≤ 0xFFFFFFFF)
    (hcnt : s.cnt = BitVec.ofNat 32 l.length) (hin : s.inp = itemsOf (bytesProgram l) ++ rest) :
    RunsWithoutFault l.length s.closeIfPaid
      { s with
        inp := rest, out := s.out ++ byteItems (l ++ be32 (complement (s.crcOver s.crc l))),
        crc := s.crcOver s.crc l, cnt := 0#32, phase := .idle } := by
  induction l generalizing s with
  | nil =>
    have hrest : s.inp = rest := hin
    have hzero : s.cnt = 0#32 := hcnt
    rw [State.closeIfPaid_paid hzero, State.closeChunk_eq, State.crcOver_nil, ← hrest, ← hzero]
    exact .zero nofun
  | cons b l ih =>
    rw [List.length_cons] at hlen hcnt
    have howing : s.cnt ≠ 0#32 := by bv_omega
    have hleft : s.cnt - 1#32 = BitVec.ofNat 32 l.length := by bv_omega
    have hout : s.out ++ [.byte b] ++ byteItems (l ++ be32 (complement (s.crcOver s.crc (b :: l)))) =
        s.out ++ byteItems (b :: l ++ be32 (complement (s.crcOver s.crc (b :: l)))) := List.append_assoc _ _ _
    rw [State.closeIfPaid_owing howing, ← hout]
    exact .cons nofun (step_data_payload rfl hin) (ih (by omega) hleft rfl)

/-- The whole chunk, over whatever the table holds: the header with the tag's register, then the payload. -/
theorem runs_chunk {t : Tag} {p : List Byte} {rest : List Item} {s : State} (hp : s.phase = .idle) (hv : s.tv = true)
    (hlen : p.length ≤ 0xFFFFFFFF) (hin : s.inp = itemsOf (buildChunkProgram t p) ++ rest) :
    RunsWithoutFault (p.length + 1) s
      { s with
        inp := rest,
        out := s.out ++ byteItems (be32 (BitVec.ofNat 32 p.length) ++ tagBytes t ++ p ++
          be32 (complement (s.crcOver Config.initV (tagBytes t ++ p)))),
        crc := s.crcOver Config.initV (tagBytes t ++ p), cnt := 0#32 } := by
  have hlow : lenLow (BitVec.ofNat 64 p.length) = BitVec.ofNat 32 p.length := by
    rw [lenLow_eq_setWidth, BitVec.setWidth_ofNat_of_le (by decide)]
  have hopen := step_chunk hp hv (by bv_omega) hin
  rw [hlow] at hopen
  have hcrc : s.crcOver (s.crcOver Config.initV (tagBytes t)) p = s.crcOver Config.initV (tagBytes t ++ p) :=
    List.foldl_append.symm
  rw [hp, List.append_assoc (be32 _ ++ tagBytes t), byteItems_append, ← List.append_assoc s.out, ← hcrc]
  exact .cons (by simp [hp]) hopen (runs_payload p rest hlen rfl rfl)

/-- Over the reference table the register ends as the complement of the checksum (R121). -/
theorem Inv.crcOver_eq {s : State} (h : Inv s) (hv : s.tv = true) (l : List Byte) :
    s.crcOver Config.initV l = ~~~(crc32 l) := by
  rw [State.crcOver, State.crcUpdate_ref (h.validTable hv), crc32, complement_eq_not, BitVec.not_not]

/-- Settles O52: the run of the chunk, over the reference table that the invariant gives. -/
theorem chunkContract : Obligations.ChunkContract := by
  intro s t p rest h hp hv hlen hin
  obtain ⟨hsteps, hend⟩ := runs_chunk hp hv hlen hin
  rw [h.crcOver_eq hv, complement_eq_not, BitVec.not_not] at hend
  exact ⟨hsteps, hend, chunkBytes_length t p, h.err_eq_none (by simp [hp])⟩

end Sys2Proof.Machine
end

section
/-! PROOFS. The family of the sequencing (R160 to R164): which step the block makes and what it leaves in `IN`, that every step
completes, the moves between phases (R162), the discard in phase `FAULT` (R163) and ABORT (R160). -/

namespace Sys2Proof.Machine

/-! ### The step that is enabled (R161) -/

theorem step_of_waiting {s : State} (hp : s.phase ≠ .init) (hin : s.inp = []) : step s = .next s := by
  rw [step, enabled_consume hp, fetch_nil hin]

/-- Outside phase `INIT` an illegal item at the head of `IN` is removed and passes the gate. -/
theorem step_of_illegal {s : State} {p : Item} {rest : List Item} (hp : s.phase ≠ .init) (hin : s.inp = p :: rest)
    (hd : decode p = none) : step s = consumeIllegal (s.dropHead rest) := by
  rw [step, enabled_consume hp, fetch_illegal hin hd]

/-- Settles O13. -/
theorem stepRunsTheDecodedInstruction : Obligations.StepRunsTheDecodedInstruction := fun _ _ _ _ => step_of_item

/-- Settles O16. -/
theorem waitingKeepsTheState : Obligations.WaitingKeepsTheState := fun _ => step_of_waiting

theorem consumeIllegal_inp {s t : State} (hc : consumeIllegal s = .next t) : t.inp = s.inp :=
  State.consuming_next (P := fun u => u.inp = s.inp) hc rfl rfl

/-- Settles O17: the fill keeps `IN`, waiting finds it empty, and what a consumed item does leaves the rest as it is. -/
theorem eachStepConsumesTheHead : Obligations.EachStepConsumesTheHead := by
  intro s t hs
  rcases step_cases hs with ⟨hp, rfl⟩ | ⟨hp, hin, rfl⟩ | ⟨p, rest, hp, hin, -, hc⟩ | ⟨p, rest, i, hp, hin, -, hx⟩
  · exact ⟨fun _ => (fillStep_frame s).1, fun hp' => absurd hp hp'⟩
  · exact ⟨fun hp' => absurd hp' hp, fun _ => by rw [hin, List.tail_nil]⟩
  · exact ⟨fun hp' => absurd hp' hp, fun _ => by rw [consumeIllegal_inp hc, hin, State.dropHead_inp, List.tail_cons]⟩
  · obtain ⟨-, -, hinp⟩ := exec_table_tv_inp hx
    exact ⟨fun hp' => absurd hp' hp, fun _ => by rw [hinp, hin, State.dropHead_inp, List.tail_cons]⟩

/-! ### Where a meaning and a step complete (R161, R235) -/

theorem State.consuming_completes {s : State} (hp : s.phase ≠ .init) (f : State → State) : ∃ t, s.consuming f = .next t := by
  by_cases hf : s.phase = .fault
  · exact ⟨s, State.consuming_fault hf⟩
  · exact ⟨f s, State.consuming_open hp hf⟩

theorem exec_completes {s : State} (hp : s.phase ≠ .init) (i : Instr) : ∃ t, exec i s = .next t := by
  cases i with
  | abort => exact ⟨s.toIdle, execAbort_of_consuming hp⟩
  | init | span | endSpan | chunk | data => exact State.consuming_completes hp _

theorem execAbort_filling {s : State} (hp : s.phase = .init) : execAbort s = .fault .consumeDuringFill := by
  simp [execAbort, hp]

theorem exec_filling {s : State} (hp : s.phase = .init) (i : Instr) : exec i s = .fault .consumeDuringFill := by
  cases i with
  | abort => exact execAbort_filling hp
  | init | span | endSpan | chunk | data => exact State.consuming_init hp

/-- Settles O19: all meanings but that of ABORT pass the gate, which stops in phase `INIT` only; ABORT does the same. -/
theorem meaningsStopOnlyDuringFill : Obligations.MeaningsStopOnlyDuringFill := fun i _ =>
  ⟨fun hp => exec_filling hp i, fun hp => exec_completes hp i⟩

/-- Settles O18: the fill step and the wait are next states, and an item is consumed only where its meaning completes. -/
theorem everyStepCompletes : Obligations.EveryStepCompletes := by
  intro s
  by_cases hp : s.phase = .init
  · exact ⟨fillStep s, step_of_filling hp⟩
  cases hin : s.inp with
  | nil => exact ⟨s, step_of_waiting hp hin⟩
  | cons p rest =>
    have hp' : (s.dropHead rest).phase ≠ .init := hp
    cases hd : decode p with
    | none => rw [step_of_illegal hp hin hd]; exact State.consuming_completes hp' _
    | some i => rw [step_of_item hp hin hd]; exact exec_completes hp' i

/-! ### The discard in phase FAULT (R163) -/

theorem exec_fault {i : Instr} {s : State} (hp : s.phase = .fault) (hi : i ≠ .abort) : exec i s = .next s := by
  cases i with
  | abort => exact absurd rfl hi
  | init | span | endSpan | chunk | data => exact State.consuming_fault hp

/-- In phase `FAULT` an item, legal or not, that is no legal ABORT is removed and nothing else changes. -/
theorem step_fault_discards {s : State} {p : Item} {rest : List Item} (hp : s.phase = .fault) (hin : s.inp = p :: rest)
    (hd : decode p ≠ some .abort) : step s = .next (s.dropHead rest) := by
  have hp' : s.phase ≠ .init := by simp [hp]
  cases hi : decode p with
  | none => rw [step_of_illegal hp' hin hi]; exact State.consuming_fault hp
  | some i => rw [step_of_item hp' hin hi]; exact exec_fault hp (by rintro rfl; exact hd hi)

/-- Outside phase `INIT` a legal ABORT at the head of `IN` is removed and takes the block to `IDLE` (R160). -/
theorem step_of_abort {s : State} {p : Item} {rest : List Item} (hp : s.phase ≠ .init) (hin : s.inp = p :: rest)
    (hd : decode p = some .abort) : step s = .next (s.dropHead rest).toIdle :=
  (step_of_item hp hin hd).trans (execAbort_of_consuming hp)

/-- A step of the block that leaves phase `FAULT` consumes a legal ABORT: waiting and the discard stay in it. -/
theorem abort_of_step_leaves_fault {s t : State} (hp : s.phase = .fault) (hs : step s = .next t) (ht : t.phase ≠ .fault) :
    ∃ p rest, s.inp = p :: rest ∧ decode p = some .abort := by
  cases hin : s.inp with
  | nil =>
    cases (step_of_waiting (by simp [hp]) hin).symm.trans hs
    exact absurd hp ht
  | cons p rest =>
    refine ⟨p, rest, rfl, not_not.mp fun hd => ?_⟩
    cases (step_fault_discards hp hin hd).symm.trans hs
    exact absurd hp ht

/-- An event that changes the phase is a step of the block or a reset: an append writes `IN` only. -/
theorem block_or_reset_of_phase_changes {e : Event} {s t : State} (ha : act e s = .next t) (hne : t.phase ≠ s.phase) :
    e = .block ∨ ∃ g, e = .reset g := by
  cases e with
  | reset g => exact .inr ⟨g, rfl⟩
  | append p => cases ha; exact absurd rfl hne
  | block => exact .inl rfl

/-- Settles O15. -/
theorem faultPhaseDiscards : Obligations.FaultPhaseDiscards := fun _ hp =>
  ⟨fun _ _ => step_fault_discards hp, fun _ _ => step_of_abort (by simp [hp]), fun _ => abort_of_step_leaves_fault hp,
    fun _ _ ha ht => block_or_reset_of_phase_changes ha (by rwa [hp])⟩

/-! ### ABORT (R160) -/

/-- Settles O28: an ABORT word with a non-zero reserved field is in none of the forms of R76. -/
theorem abortMeaning : Obligations.AbortMeaning := by
  refine ⟨by decide, fun p hk hop hres => ?_, fun s => execAbort_of_consuming⟩
  obtain ⟨-, hrsv, hopd⟩ := legalCommandWordsListed p hk
  exact hres.elim hrsv (hopd (.inr (.inr (.inr hop))))

/-! ### The moves between phases (R162) -/

/-- The phases that a step can move to from phase `p` with `TV = v`: the entries of R162's matrix, the fill step and the wait. -/
inductive PhaseMove (p : Phase) (v : Bool) : Phase → Prop
  | stay : PhaseMove p v p
  | toIdle : PhaseMove p v .idle
  | raise : p ≠ .init → PhaseMove p v .fault
  | beginFill : p = .idle → v = false → PhaseMove p v .init
  | openSpan : p = .idle → v = true → PhaseMove p v .span
  | openChunk : p = .idle → v = true → PhaseMove p v .payload

section
variable {p q : Phase} {v : Bool}

theorem PhaseMove.into_init (h : PhaseMove p v q) (hq : q = .init) : p = .init ∨ (p = .idle ∧ v = false) := by
  subst hq
  cases h with
  | stay => exact .inl rfl
  | beginFill hp hv => exact .inr ⟨hp, hv⟩

theorem PhaseMove.into_span (h : PhaseMove p v q) (hq : q = .span) : p = .span ∨ (p = .idle ∧ v = true) := by
  subst hq
  cases h with
  | stay => exact .inl rfl
  | openSpan hp hv => exact .inr ⟨hp, hv⟩

theorem PhaseMove.into_payload (h : PhaseMove p v q) (hq : q = .payload) : p = .payload ∨ (p = .idle ∧ v = true) := by
  subst hq
  cases h with
  | stay => exact .inl rfl
  | openChunk hp hv => exact .inr ⟨hp, hv⟩

theorem PhaseMove.from_init (h : PhaseMove p v q) (hp : p = .init) : q = .init ∨ q = .idle := by
  cases h with
  | stay => exact .inl hp
  | toIdle => exact .inr rfl
  | raise hp' => exact absurd hp hp'
  | beginFill => exact .inl rfl
  | openSpan hidle | openChunk hidle => cases hp.symm.trans hidle

theorem PhaseMove.from_fault (h : PhaseMove p v q) (hp : p = .fault) : q = .fault ∨ q = .idle := by
  cases h with
  | stay => exact .inl hp
  | toIdle => exact .inr rfl
  | raise => exact .inl rfl
  | beginFill hidle | openSpan hidle | openChunk hidle => cases hp.symm.trans hidle

end

theorem fillStep_phaseMove (s : State) : PhaseMove s.phase s.tv (fillStep s).phase := by
  by_cases hi : s.idx = 255#8
  · rw [fillStep_last hi]; exact .toIdle
  · rw [fillStep_more hi]; exact .stay

theorem consumeIllegal_phaseMove {s t : State} (hc : consumeIllegal s = .next t) : PhaseMove s.phase s.tv t.phase := by
  obtain ⟨hp, ⟨-, rfl⟩ | ⟨-, rfl⟩⟩ := State.consuming_cases hc
  · exact .stay
  · exact .raise hp

theorem exec_phaseMove {i : Instr} {s t : State} (hx : exec i s = .next t) : PhaseMove s.phase s.tv t.phase := by
  obtain ⟨hinit, ⟨rfl, -⟩ | ⟨-, rfl⟩ | ⟨e, rfl, -⟩ | ⟨-, hp, hv, rfl⟩ | ⟨-, hp, hv, rfl⟩ | ⟨-, -, rfl⟩ |
    ⟨tag, len, -, hp, hv, -, rfl⟩ | ⟨b, -, -, rfl⟩ | ⟨b, -, hp, rfl⟩⟩ := exec_cases hx
  · exact .stay
  · exact .toIdle
  · exact .raise hinit
  · exact .beginFill hp hv
  · exact .openSpan hp hv
  · exact .toIdle
  · obtain ⟨ht, -⟩ | ⟨ht, -⟩ := State.openChunk_phase s tag (lenLow len)
    · rw [ht]; exact .toIdle
    · rw [ht]; exact .openChunk hp hv
  · exact .stay
  · obtain ⟨ht, -⟩ | ⟨ht, -⟩ := payloadStep_phase b s
    · rw [ht]; exact .toIdle
    · rw [ht, hp]; exact .stay

theorem step_phaseMove {s t : State} (hs : step s = .next t) : PhaseMove s.phase s.tv t.phase := by
  rcases step_cases hs with ⟨-, rfl⟩ | ⟨-, -, rfl⟩ | ⟨p, rest, -, -, -, hc⟩ | ⟨p, rest, i, -, -, -, hx⟩
  · exact fillStep_phaseMove s
  · exact .stay
  · exact consumeIllegal_phaseMove (s := s.dropHead rest) hc
  · exact exec_phaseMove (s := s.dropHead rest) hx

/-- Only the last fill step writes `TV` (R22, R105). -/
theorem last_fill_of_step_tv_changes {s t : State} (hs : step s = .next t) (hne : t.tv ≠ s.tv) :
    s.phase = .init ∧ s.idx = 255#8 ∧ t.tv = true ∧ t.phase = .idle := by
  have hp : s.phase = .init := not_not.mp fun hp => hne (step_table_tv_of_not_filling hp hs).2
  cases (step_of_filling hp).symm.trans hs
  by_cases hi : s.idx = 255#8
  · rw [fillStep_last hi]; exact ⟨hp, hi, rfl, rfl⟩
  · rw [fillStep_more hi] at hne; exact absurd rfl hne

/-- Settles O37: the moves of a step read off at either end, and `TV`, which only the fill writes. -/
theorem phaseTransitions : Obligations.PhaseTransitions := fun _ _ hs =>
  have hmove := step_phaseMove hs
  ⟨hmove.into_init, hmove.into_span, hmove.into_payload, hmove.from_init, hmove.from_fault, last_fill_of_step_tv_changes hs⟩

end Sys2Proof.Machine
end

section
/-! PROOFS. The family of the host's sequences (R181 to R187): the bytes of a PNG file, the dimensions the host refuses, and the image
that the host gives up, which leaves the next one whole. -/

namespace Sys2Proof.Machine

/-! ### The PNG file (R181 to R185) -/

@[simp] theorem fileBytes_byteItems (l : List Byte) : fileBytes (byteItems l) = l := by
  induction l with
  | nil => rfl
  | cons b l ih => exact congrArg (b :: ·) ih

@[simp] theorem ihdrPayload_length (w h : Word) : (ihdrPayload w h).length = 13 := rfl

/-- The three chunks of an image, as one byte sequence. -/
theorem opsOutput_pngOps (w h : Word) (z : List Byte) :
    opsOutput (pngOps w h z) =
      byteItems (chunkBytes tagIHDR (ihdrPayload w h) ++ chunkBytes tagIDAT z ++ chunkBytes tagIEND []) := by
  simp [opsOutput, pngOps, opOutput]

theorem pngFile_pngOps (w h : Word) (z : List Byte) :
    pngFile (opsOutput (pngOps w h z)) =
      pngSignature ++ (chunkBytes tagIHDR (ihdrPayload w h) ++ chunkBytes tagIDAT z ++ chunkBytes tagIEND []) := by
  rw [pngFile, opsOutput_pngOps, fileBytes_byteItems]

/-- R184: the IEND chunk is always the same 12 bytes. -/
theorem chunkBytes_iend :
    chunkBytes tagIEND [] =
      [0x00#8, 0x00#8, 0x00#8, 0x00#8, 0x49#8, 0x45#8, 0x4E#8, 0x44#8, 0xAE#8, 0x42#8, 0x60#8, 0x82#8] := by
  have hcrc : crc32 (tagBytes tagIEND ++ []) = 0xAE426082#32 := crc32_iend
  rw [chunkBytes, hcrc]
  decide

/-- Settles O50: the file is the signature and the three chunks, whose lengths add up. -/
theorem pngFileShape : Obligations.PngFileShape := by
  intro w h z _
  dsimp only
  rw [pngFile_pngOps]
  have hsig : pngSignature.length = 8 := rfl
  refine ⟨List.take_left' hsig, ?_, ?_⟩
  · rw [List.drop_left' hsig, chunkBytes_iend]
    rfl
  · simp only [List.length_append, hsig, chunkBytes_length, ihdrPayload_length, List.length_nil]
    omega

/-! ### What the host sends for an image (R186) -/

section
variable {limits : Nat → Nat → Bool} {w h : Nat}

theorem dimensionsValid_iff :
    dimensionsValid limits w h = true ↔ (0 < w ∧ w < 2 ^ 32 ∧ 0 < h ∧ h < 2 ^ 32) ∧ limits w h = true := by
  rw [dimensionsValid, Bool.and_eq_true, decide_eq_true_iff]

theorem imageProgram_refused (hd : ¬ dimensionsValid limits w h = true) (z : List Byte) (failure : Option (HostError × Nat)) :
    imageProgram limits w h z failure = ([], some .invalidDimensions) :=
  if_neg hd

theorem imageProgram_whole (hd : dimensionsValid limits w h = true) (z : List Byte) :
    imageProgram limits w h z none = (opsProgram (pngOps (BitVec.ofNat 32 w) (BitVec.ofNat 32 h) z), none) :=
  if_pos hd

theorem imageProgram_stopped (hd : dimensionsValid limits w h = true) (z : List Byte) (e : HostError) (k : Nat) :
    imageProgram limits w h z (some (e, k)) =
      (stoppedProgram (pngOps (BitVec.ofNat 32 w) (BitVec.ofNat 32 h) z) k, some e) :=
  if_pos hd

end

/-- Settles O54: each of the five grounds makes the dimensions invalid, and nothing else does. -/
theorem invalidDimensionsSendNothing : Obligations.InvalidDimensionsSendNothing := by
  intro limits w h z failure
  refine ⟨fun hbad => imageProgram_refused (fun hd => ?_) z failure, fun hw hw' hh hh' hl => ?_⟩
  · obtain ⟨hdims, hl⟩ := dimensionsValid_iff.mp hd
    rcases hbad with hbad | hbad | hbad | hbad | hbad
    case inr.inr.inl => simp [hl] at hbad
    all_goals omega
  · exact imageProgram_whole (dimensionsValid_iff.mpr ⟨⟨hw, hw', hh, hh'⟩, hl⟩) z

/-! ### Runs over a valid table -/

/-- The block stands between two operations, its table valid: where the host may begin one (R126, R144). -/
structure Ready (s : State) : Prop where
  inv : Inv s
  idle : s.phase = .idle
  valid : s.tv = true

/-- `k` steps lead from `s` to `t`, which has appended `l` to `OUT` and has `rest` left in `IN`. -/
structure Delivers (k : Nat) (s : State) (l : List OutItem) (rest : List Item) (t : State) : Prop where
  run : runSteps k s = .next t
  inp : t.inp = rest
  out : t.out = s.out ++ l

theorem Delivers.zero {s : State} {rest : List Item} (hin : s.inp = rest) : Delivers 0 s [] rest s :=
  ⟨runSteps_zero s, hin, (List.append_nil _).symm⟩

theorem Delivers.append {j k : Nat} {s t u : State} {l m : List OutItem} {rest rest' : List Item}
    (h : Delivers j s l rest t) (h' : Delivers k t m rest' u) : Delivers (j + k) s (l ++ m) rest' u :=
  ⟨(runSteps_add h.run k).trans h'.run, h'.inp, by rw [h'.out, h.out, List.append_assoc]⟩

theorem exists_delivers_cons {k : Nat} {s t : State} {l m : List OutItem} {rest : List Item} (hs : step s = .next t)
    (hout : t.out = s.out ++ l) : (∃ u, Delivers k t m rest u) → ∃ u, Delivers (k + 1) s (l ++ m) rest u
  | ⟨u, h⟩ => ⟨u, (runSteps_succ hs).trans h.run, h.inp, by rw [h.out, hout, List.append_assoc]⟩

/-- A run over a valid table keeps the invariant and the table (R28 (g)). -/
theorem Inv.runSteps_valid {k : Nat} {s t : State} (h : Inv s) (hv : s.tv = true) (hr : runSteps k s = .next t) :
    Inv t ∧ t.tv = true ∧ t.table = s.table := by
  induction k generalizing s with
  | zero => cases hr; exact ⟨h, hv, rfl⟩
  | succ k ih =>
    obtain ⟨u, hs⟩ := everyStepCompletes s
    rw [runSteps_succ hs] at hr
    obtain ⟨htable, htv⟩ := step_table_tv_of_not_filling (h.phase_ne_init hv) hs
    rw [← htable]
    exact ih (step_keeps_inv h hs) (htv.trans hv) hr

theorem Ready.after {k : Nat} {s t : State} (h : Ready s) (hr : runSteps k s = .next t) (hp : t.phase = .idle) : Ready t :=
  have ⟨hinv, hv, _⟩ := h.inv.runSteps_valid h.valid hr
  ⟨hinv, hp, hv⟩

/-! ### The run of whole operations (R126, R144, R236) -/

theorem itemsOf_append (l m : List Instr) : itemsOf (l ++ m) = itemsOf l ++ itemsOf m := List.map_append

theorem checksumProgram_length (l : List Byte) : (checksumProgram l).length = l.length + 2 := by
  simp [checksumProgram, bytesProgram]

theorem buildChunkProgram_length (t : Tag) (l : List Byte) : (buildChunkProgram t l).length = l.length + 1 := by
  simp [buildChunkProgram, bytesProgram]

/-- The two contracts (R126, R144), said once for any operation. -/
theorem Ready.delivers_op {s : State} {o : HostOp} {rest : List Item} (h : Ready s) (ho : opAdmissible o = true)
    (hin : s.inp = itemsOf (opProgram o) ++ rest) :
    ∃ t, Delivers (opProgram o).length s (opOutput o) rest t ∧ Ready t := by
  cases o with
  | checksum l =>
    obtain ⟨-, hrun, -⟩ := checksumContract s l rest h.inv h.idle h.valid hin
    rw [← checksumProgram_length] at hrun
    exact ⟨_, ⟨hrun, rfl, rfl⟩, h.after hrun h.idle⟩
  | buildChunk t l =>
    obtain ⟨-, hrun, -⟩ := chunkContract s t l rest h.inv h.idle h.valid (of_decide_eq_true ho) hin
    rw [← buildChunkProgram_length t] at hrun
    exact ⟨_, ⟨hrun, rfl, rfl⟩, h.after hrun h.idle⟩

/-- A list of operations, one after the other. -/
theorem Ready.delivers_ops {ops : List HostOp} {s : State} {rest : List Item} (h : Ready s) (ho : ops.all opAdmissible = true)
    (hin : s.inp = itemsOf (opsProgram ops) ++ rest) :
    ∃ t, Delivers (opsProgram ops).length s (opsOutput ops) rest t ∧ Ready t := by
  induction ops generalizing s with
  | nil => exact ⟨s, .zero hin, h⟩
  | cons o r ih =>
    obtain ⟨ho, hr⟩ := Bool.and_eq_true_iff.mp ho
    have hprogram : opsProgram (o :: r) = opProgram o ++ opsProgram r := List.flatMap_cons
    rw [hprogram, itemsOf_append, List.append_assoc] at hin
    obtain ⟨t, hop, ht⟩ := h.delivers_op ho hin
    obtain ⟨u, hops, hu⟩ := ih ht hr hop.inp
    rw [hprogram, List.length_append]
    exact ⟨u, hop.append hops, hu⟩

/-! ### The run of an operation that the host gives up (R186) -/

/-- Fewer payload bytes than are owed: each is passed, and the chunk stays open. -/
theorem delivers_owed_bytes (l : List Byte) (rest : List Item) {s : State} (hp : s.phase = .payload) (hcnt : l.length < s.cnt.toNat)
    (hin : s.inp = itemsOf (bytesProgram l) ++ rest) : ∃ t, Delivers l.length s (byteItems l) rest t := by
  induction l generalizing s with
  | nil => exact ⟨s, .zero hin⟩
  | cons b l ih =>
    rw [List.length_cons] at hcnt
    have hmore : s.cnt ≠ 1#32 := by bv_omega
    have hs := step_data_payload hp hin
    rw [payloadStep_more b (by exact hmore)] at hs
    have hleft : l.length < (s.cnt - 1#32).toNat := by bv_omega
    exact exists_delivers_cons hs rfl (ih rfl hleft rfl)

theorem exists_append_of_le_length {k : Nat} {l : List Byte} (hk : k ≤ l.length) :
    ∃ m m', l = m ++ m' ∧ k = m.length :=
  ⟨l.take k, l.drop k, (List.take_append_drop k l).symm, (List.length_take_of_le hk).symm⟩

/-- The first instruction of an operation and some but not all of the others: what the block has emitted begins what the whole operation
delivers. -/
theorem Ready.delivers_op_begun {s : State} {o : HostOp} {k : Nat} {rest : List Item} (h : Ready s) (ho : opAdmissible o = true)
    (hk : k + 1 < (opProgram o).length) (hin : s.inp = itemsOf ((opProgram o).take (k + 1)) ++ rest) :
    ∃ l, l <+: opOutput o ∧ ∃ t, Delivers (k + 1) s l rest t := by
  cases o with
  | checksum l =>
    have hkl : k ≤ l.length := Nat.le_of_lt_succ (Nat.lt_of_succ_lt_succ (hk.trans_eq (checksumProgram_length l)))
    obtain ⟨m, m', rfl, rfl⟩ := exists_append_of_le_length hkl
    have htake : (opProgram (.checksum (m ++ m'))).take (m.length + 1) = .span :: bytesProgram m := by
      simp [opProgram, checksumProgram, bytesProgram]
    rw [htake] at hin
    have hout : s.out = s.out ++ [] := (List.append_nil _).symm
    obtain ⟨-, hbytes⟩ := runs_span_bytes m rest
      (s := { s with inp := itemsOf (bytesProgram m) ++ rest, crc := Config.initV, phase := .span }) rfl rfl
    exact ⟨[], List.nil_prefix, exists_delivers_cons (step_span h.idle h.valid hin) hout ⟨_, hbytes, rfl, hout⟩⟩
  | buildChunk t l =>
    have hkl : k < l.length := Nat.lt_of_succ_lt_succ (hk.trans_eq (buildChunkProgram_length t l))
    have hfits : l.length ≤ 0xFFFFFFFF := of_decide_eq_true ho
    obtain ⟨m, m', rfl, rfl⟩ := exists_append_of_le_length hkl.le
    have htake : (opProgram (.buildChunk t (m ++ m'))).take (m.length + 1) =
        .chunk t (BitVec.ofNat 64 (m ++ m').length) :: bytesProgram m := by
      simp [opProgram, buildChunkProgram, bytesProgram]
    rw [htake] at hin
    have hopen := step_chunk h.idle h.valid (by bv_omega) hin
    rw [lenLow_eq_setWidth, BitVec.setWidth_ofNat_of_le (by decide), State.openChunk_owing _ t (by bv_omega)] at hopen
    have hbegins : byteItems (be32 (BitVec.ofNat 32 (m ++ m').length) ++ tagBytes t ++ m) <+: byteItems (chunkBytes t (m ++ m')) :=
      List.IsPrefix.map _ ⟨m' ++ be32 (crc32 (tagBytes t ++ (m ++ m'))), by simp [chunkBytes]⟩
    rw [byteItems_append] at hbegins
    exact ⟨_, hbegins, exists_delivers_cons hopen rfl (delivers_owed_bytes m rest rfl (by bv_omega) rfl)⟩

/-! ### The program of an image that the host gives up (R186) -/

theorem stoppedProgram_nil (k : Nat) : stoppedProgram [] k = [] := by
  simp [stoppedProgram, opsProgram, openAfter]

section
variable {o : HostOp} {r : List HostOp} {k : Nat}

/-- Nothing sent, nothing open: every operation has at least one instruction. -/
theorem stoppedProgram_zero : stoppedProgram (o :: r) 0 = [] := by
  have hpos : 0 < (opProgram o).length := by
    cases o with
    | checksum l => exact Nat.succ_pos _
    | buildChunk t l => exact Nat.succ_pos _
  simp [stoppedProgram, openAfter, hpos]

theorem stoppedProgram_inside (hk : k + 1 < (opProgram o).length) :
    stoppedProgram (o :: r) (k + 1) = (opProgram o).take (k + 1) ++ [.abort] := by
  simp [stoppedProgram, opsProgram, openAfter, hk, List.take_append_of_le_length hk.le]

theorem stoppedProgram_beyond (hk : (opProgram o).length ≤ k) :
    stoppedProgram (o :: r) k = opProgram o ++ stoppedProgram r (k - (opProgram o).length) := by
  simp [stoppedProgram, opsProgram, openAfter, Nat.not_lt.mpr hk, List.take_append, List.take_of_length_le hk]

end

/-- Wherever the host stops, it leaves the block between two operations, with the beginning of what they deliver. -/
theorem Ready.delivers_stopped {ops : List HostOp} {k : Nat} {s : State} {rest : List Item} (h : Ready s)
    (ho : ops.all opAdmissible = true) (hin : s.inp = itemsOf (stoppedProgram ops k) ++ rest) :
    ∃ l t, l <+: opsOutput ops ∧ Delivers (stoppedProgram ops k).length s l rest t ∧ Ready t := by
  induction ops generalizing s k with
  | nil =>
    rw [stoppedProgram_nil] at hin ⊢
    exact ⟨[], s, List.nil_prefix, .zero hin, h⟩
  | cons o r ih =>
    obtain ⟨ho, hr⟩ := Bool.and_eq_true_iff.mp ho
    have houtput : opsOutput (o :: r) = opOutput o ++ opsOutput r := List.flatMap_cons
    rw [houtput]
    by_cases hk : (opProgram o).length ≤ k
    · rw [stoppedProgram_beyond hk, itemsOf_append, List.append_assoc] at hin
      obtain ⟨t, hop, ht⟩ := h.delivers_op ho hin
      obtain ⟨l, u, hl, hops, hu⟩ := ih ht hr hop.inp
      rw [stoppedProgram_beyond hk, List.length_append]
      exact ⟨_, u, (List.prefix_append_right_inj _).mpr hl, hop.append hops, hu⟩
    cases k with
    | zero =>
      rw [stoppedProgram_zero] at hin ⊢
      exact ⟨[], s, List.nil_prefix, .zero hin, h⟩
    | succ k =>
      have hk := Nat.lt_of_not_le hk
      rw [stoppedProgram_inside hk, itemsOf_append, List.append_assoc] at hin
      obtain ⟨l, hl, t, hbegun⟩ := h.delivers_op_begun ho hk hin
      obtain ⟨hinv, hv, -⟩ := h.inv.runSteps_valid h.valid hbegun.run
      have habort := step_of_abort (hinv.phase_ne_init hv) hbegun.inp (decode_encode .abort)
      have hafter : Delivers (k + 1 + 1) s l rest (t.dropHead rest).toIdle :=
        ⟨(runSteps_add hbegun.run 1).trans (runSteps_succ habort), rfl, hbegun.out⟩
      rw [stoppedProgram_inside hk, List.length_append, List.length_take_of_le hk.le]
      exact ⟨l, _, hl.trans (List.prefix_append _ _), hafter, h.after hafter.run rfl⟩

/-! ### The image given up and the next one (R186) -/

theorem pngOps_admissible (w h : Word) {z : List Byte} (hz : z.length ≤ 0xFFFFFFFF) :
    (pngOps w h z).all opAdmissible = true := by
  simp [pngOps, opAdmissible, hz]

theorem imageResult_of_idle {s t : State} {l : List OutItem} (hp : t.phase = .idle) (hout : t.out = s.out ++ l) :
    imageResult none s t = .file (pngFile l) := by
  simp [imageResult, hp, hout]

/-- Settles O55: wherever the image is given up the block is ready for the next, which then runs as if nothing had come before. -/
theorem failedImageLeavesTheNextWhole : Obligations.FailedImageLeavesTheNextWhole := by
  intro limits s w h w' h' z z' e k rest hinv hp hv hz hz' hd hd'
  rw [imageProgram_stopped hd, imageProgram_whole hd']
  intro failed next hin
  have hs : Ready s := ⟨hinv, hp, hv⟩
  obtain ⟨l, t, hl, hstopped, ht⟩ := hs.delivers_stopped (pngOps_admissible _ _ hz) hin
  obtain ⟨u, hnext, hu⟩ := ht.delivers_ops (pngOps_admissible _ _ hz') hstopped.inp
  obtain ⟨-, -, htable⟩ := hinv.runSteps_valid hv hstopped.run
  exact ⟨t, u, hstopped.run, ht.idle, ht.inv.err_eq_none (by simp [ht.idle]), ht.valid, htable, ⟨l, hl, hstopped.out⟩, rfl,
    hnext.run, hnext.inp, imageResult_of_idle hu.idle hnext.out⟩

end Sys2Proof.Machine
end

section
/-! PROOFS. The family of the faults (R200 to R209, R215): the fault an item reports is the one it takes, so each fault is raised by
exactly the items that report it; in phase `FAULT` no event but a reset or a legal ABORT touches more than `IN`; an event at one of
several blocks. -/

namespace Sys2Proof.Machine

/-! ### Several blocks (R215) -/

/-- An event at place `k` does nothing where no block stands there; elsewhere it puts what it makes of that block's state in its place. -/
theorem actAt_cases {l l' : List State} {k : Nat} {e : Event} (h : actAt l k e = .next l') :
    (l[k]? = none ∧ l' = l) ∨ ∃ s t, l[k]? = some s ∧ act e s = .next t ∧ l' = l.set k t := by
  unfold actAt at h
  split at h
  · next hk => cases h; exact .inl ⟨hk, rfl⟩
  · next s hk =>
    split at h
    · next t ht => cases h; exact .inr ⟨s, t, hk, ht, rfl⟩
    · cases h
    · cases h

/-- Settles O12: the list is unchanged or is set at place `k`. -/
theorem instancesAreIndependent : Obligations.InstancesAreIndependent := by
  intro l l' k e h
  obtain ⟨hk, rfl⟩ | ⟨s, t, hk, ht, rfl⟩ := actAt_cases h
  · exact ⟨rfl, fun _ _ => rfl, fun s hs => nomatch hk.symm.trans hs⟩
  · refine ⟨List.length_set, fun j hj => List.getElem?_set_ne hj.symm, fun s' hs' => ?_⟩
    obtain ⟨hlt, -⟩ := List.getElem?_eq_some_iff.mp hk
    cases hk.symm.trans hs'
    exact ⟨t, ht, List.getElem?_set_self hlt⟩

/-! ### IllegalCommand (R203) -/

theorem phase_ne_of_acting {s : State} (hp : s.phase = .idle ∨ s.phase = .span ∨ s.phase = .payload) :
    s.phase ≠ .init ∧ s.phase ≠ .fault := by
  rcases hp with hp | hp | hp <;> simp [hp]

/-- Where an item acts, an illegal one at the head of `IN` is removed and raises `IllegalCommand`. -/
theorem step_of_illegal_acting {s : State} {p : Item} {rest : List Item}
    (hp : s.phase = .idle ∨ s.phase = .span ∨ s.phase = .payload) (hin : s.inp = p :: rest) (hd : decode p = none) :
    step s = .next ((s.dropHead rest).raise .illegalCommand) := by
  rw [step_of_illegal (phase_ne_of_acting hp).1 hin hd]
  exact State.consuming_acting (by exact hp) rfl

/-- Settles O14. -/
theorem illegalItemFaults : Obligations.IllegalItemFaults :=
  ⟨rfl, fun _ _ _ => step_of_illegal_acting⟩

/-! ### The fault that a legal item reports (R201, R202, R204, R206) -/

section
variable {p : Phase} {v : Bool} {i : Instr}

@[simp] theorem reportedFault_init (v : Bool) (i : Instr) : reportedFault .init v (some i) = .none := by
  cases i <;> rfl

@[simp] theorem reportedFault_fault (v : Bool) (i : Instr) : reportedFault .fault v (some i) = .none := by
  cases i <;> rfl

@[simp] theorem reportedFault_abort (p : Phase) (v : Bool) : reportedFault p v (some .abort) = .none := by
  cases p <;> rfl

/-- The length test of R206's order is the one that CHUNK makes. -/
theorem reportedFault_idle_chunk (v : Bool) (t : Tag) (len : Length) :
    reportedFault .idle v (some (.chunk t len)) =
      if v then if lenTooLarge len then .payloadTooLarge else .none else .tableNotReady := by
  simp [reportedFault, lenTooLarge_iff]

theorem reportedFault_eq_sequenceError_iff :
    reportedFault p v (some i) = .sequenceError ↔
      (p = .idle ∧ ((∃ b, i = .data b) ∨ i = .endSpan)) ∨
      (p = .span ∧ (i = .init ∨ i = .span ∨ ∃ t len, i = .chunk t len)) ∨
      (p = .payload ∧ (i = .init ∨ i = .span ∨ i = .endSpan ∨ ∃ t len, i = .chunk t len)) := by
  cases p with
  | init | fault => simp
  | span | payload => cases i <;> simp [reportedFault]
  | idle => cases i <;> simp [reportedFault, ite_eq_iff]

theorem reportedFault_eq_tableNotReady_iff :
    reportedFault p v (some i) = .tableNotReady ↔ p = .idle ∧ v = false ∧ (i = .span ∨ ∃ t len, i = .chunk t len) := by
  cases p with
  | init | fault => simp
  | span | payload => cases i <;> simp [reportedFault]
  | idle => cases i <;> simp [reportedFault, ite_eq_iff]

theorem reportedFault_eq_payloadTooLarge (hp : p = .idle) (hv : v = true) {t : Tag} {len : Length} (hlen : lenTooLarge len = true) :
    reportedFault p v (some (.chunk t len)) = .payloadTooLarge := by
  simp [hp, hv, hlen, reportedFault_idle_chunk]

end

/-! ### An instruction takes the fault it reports (R205, R206) -/

/-- An instruction that reports a fault takes it; one that reports none neither enters phase `FAULT` nor writes a fault to `ERR`. -/
theorem exec_reports {i : Instr} {s t : State} (hx : exec i s = .next t) :
    (reportedFault s.phase s.tv (some i) = .none ∧ (t.phase = .fault → s.phase = .fault) ∧ (t.err = s.err ∨ t.err = .none)) ∨
    (reportedFault s.phase s.tv (some i) ≠ .none ∧ t = s.raise (reportedFault s.phase s.tv (some i))) := by
  obtain ⟨-, ⟨rfl, h⟩ | ⟨rfl, rfl⟩ | ⟨e, rfl, -, -, he, hlegal, hbig, hready, hseq⟩ |
    ⟨rfl, hp, -, rfl⟩ | ⟨rfl, hp, hv, rfl⟩ | ⟨rfl, hp, rfl⟩ |
    ⟨tag, len, rfl, hp, hv, hlen, rfl⟩ | ⟨b, rfl, hp, rfl⟩ | ⟨b, rfl, hp, rfl⟩⟩ := exec_cases hx
  · refine .inl ⟨?_, id, .inl rfl⟩
    obtain ⟨hp, -⟩ | ⟨rfl, hp, -⟩ := h
    · simp [hp]
    · simp [hp, reportedFault]
  · exact .inl ⟨reportedFault_abort _ _, nofun, .inr rfl⟩
  · have hrep : reportedFault s.phase s.tv (some i) = e := by
      cases e with
      | none => exact absurd rfl he
      | illegalCommand => exact absurd rfl hlegal
      | payloadTooLarge =>
        obtain ⟨hp, hv, tag, len, rfl, hlen⟩ := hbig rfl
        exact reportedFault_eq_payloadTooLarge hp hv hlen
      | tableNotReady => exact reportedFault_eq_tableNotReady_iff.mpr (hready rfl)
      | sequenceError =>
        exact reportedFault_eq_sequenceError_iff.mpr ((hseq rfl).imp_left (And.imp_right Or.symm))
    rw [hrep]
    exact .inr ⟨he, rfl⟩
  · exact .inl ⟨by simp [hp, reportedFault], nofun, .inl rfl⟩
  · exact .inl ⟨by simp [hp, hv, reportedFault], nofun, .inl rfl⟩
  · exact .inl ⟨by simp [hp, reportedFault], nofun, .inl rfl⟩
  · refine .inl ⟨by simp [hp, hv, hlen, reportedFault_idle_chunk], fun hf => ?_, .inl (by simp)⟩
    obtain ⟨ht, -⟩ | ⟨ht, -⟩ := State.openChunk_phase s tag (lenLow len) <;> cases ht.symm.trans hf
  · exact .inl ⟨by simp [hp, reportedFault], id, .inl rfl⟩
  · refine .inl ⟨by simp [hp, reportedFault], fun hf => ?_, .inl (by simp)⟩
    obtain ⟨ht, -⟩ | ⟨ht, -⟩ := payloadStep_phase b s <;> cases ht.symm.trans hf

/-- Where `ERR` does not hold the code already, an instruction raises exactly the fault it reports. -/
theorem exec_eq_raise_iff {i : Instr} {s : State} {e : Err} (he : e ≠ .none) (hs : s.err ≠ e) :
    exec i s = .next (s.raise e) ↔ reportedFault s.phase s.tv (some i) = e := by
  constructor
  · intro hx
    obtain ⟨-, -, herr⟩ | ⟨-, heq⟩ := exec_reports hx
    · exact (herr.elim (fun h => hs h.symm) he).elim
    · exact (congrArg State.err heq).symm
  · intro hrep
    have hp : s.phase ≠ .init := by
      intro hp
      rw [hp, reportedFault_init] at hrep
      exact he hrep.symm
    obtain ⟨t, hx⟩ := exec_completes hp i
    obtain ⟨hnone, -⟩ | ⟨-, rfl⟩ := exec_reports hx
    · exact absurd (hrep.symm.trans hnone) he
    · rw [hx, hrep]

/-- Settles O29. -/
theorem sequenceErrorsExactly : Obligations.SequenceErrorsExactly :=
  ⟨rfl, fun _ _ hs => (exec_eq_raise_iff (e := .sequenceError) nofun hs).trans reportedFault_eq_sequenceError_iff⟩

/-- Settles O30. -/
theorem tableNotReadyExactly : Obligations.TableNotReadyExactly :=
  ⟨rfl, fun _ _ hs => (exec_eq_raise_iff (e := .tableNotReady) nofun hs).trans reportedFault_eq_tableNotReady_iff⟩

/-! ### Priority and precision (R206, R207) -/

/-- Settles O32: an illegal item raises `IllegalCommand`, and a legal one takes the fault it reports. -/
theorem faultPriorityAndPrecision : Obligations.FaultPriorityAndPrecision := by
  intro s t p rest hp hin hs
  cases hd : decode p with
  | none =>
    cases (step_of_illegal_acting hp hin hd).symm.trans hs
    rfl
  | some i =>
    obtain ⟨hinit, hfault⟩ := phase_ne_of_acting hp
    rw [step_of_item hinit hin hd] at hs
    obtain ⟨hnone, hphase, -⟩ | ⟨hne, rfl⟩ := exec_reports hs
    · exact (if_pos hnone).mpr fun hf => hfault (hphase hf)
    · exact (if_neg hne).mpr rfl

/-! ### The first fault is kept (R209) -/

/-- No item waiting in `IN` is a legal ABORT. -/
def NoAbortQueued (s : State) : Prop := ∀ p ∈ s.inp, decode p ≠ some .abort

/-- In phase `FAULT` with no legal ABORT in `IN`, a step discards the head of `IN` or waits. -/
theorem step_fault_writes_inp {s t : State} (hp : s.phase = .fault) (hq : NoAbortQueued s) (hs : step s = .next t) :
    t = s.dropHead s.inp.tail := by
  cases hin : s.inp with
  | nil =>
    cases (step_of_waiting (by simp [hp]) hin).symm.trans hs
    rw [List.tail_nil, ← hin]
    rfl
  | cons p rest =>
    cases (step_fault_discards hp hin (hq p (by simp [hin]))).symm.trans hs
    rfl

/-- In phase `FAULT` an event that is no reset and brings no legal ABORT writes `IN` only, and leaves no legal ABORT there. -/
theorem act_fault_writes_inp {e : Event} {s t : State} (hp : s.phase = .fault) (hq : NoAbortQueued s) (hr : isReset e = false)
    (happ : ∀ p, e = .append p → decode p ≠ some .abort) (ha : act e s = .next t) :
    t = s.dropHead t.inp ∧ NoAbortQueued t := by
  cases e with
  | reset g => cases hr
  | append p =>
    cases ha
    refine ⟨rfl, fun q hmem => ?_⟩
    obtain hmem | hmem := List.mem_append.mp hmem
    · exact hq q hmem
    · exact happ q (by rw [List.mem_singleton.mp hmem])
  | block =>
    obtain rfl := step_fault_writes_inp hp hq ha
    exact ⟨rfl, fun q hmem => hq q (List.mem_of_mem_tail hmem)⟩

/-- Settles O33, by induction on the events. -/
theorem firstFaultIsKept : Obligations.FirstFaultIsKept := by
  intro es
  induction es with
  | nil => intro s t _ _ _ h; cases h; rfl
  | cons e es ih =>
    intro s t hp hq hes h
    obtain ⟨u, hu, hrest⟩ := actAll_cons_next h
    obtain ⟨hr, happ⟩ := hes e List.mem_cons_self
    obtain ⟨heq, hq'⟩ := act_fault_writes_inp hp hq hr happ hu
    have hp' : u.phase = .fault := by rw [heq]; exact hp
    have ht := ih u t hp' hq' (fun e' he' => hes e' (List.mem_cons_of_mem e he')) hrest
    rw [ht, heq]
    rfl

end Sys2Proof.Machine
end

section
/-! PROOFS. The family of reset and of the run from it (R35, R230, R236): what a reset leaves, the initialisation that makes the block
ready, and the run of a host that keeps its duties. -/

namespace Sys2Proof.Machine

/-- Settles O8: a reset is enabled in every state and each field it leaves is read off `State.resetWith`. -/
theorem resetLeavesTheResetState : Obligations.ResetLeavesTheResetState := fun _ g =>
  ⟨State.resetWith g, rfl, State.resetWith_tv g, State.resetWith_phase g, State.resetWith_err g, State.resetWith_status g,
    State.resetWith_inp g, State.resetWith_out g, State.resetWith_table g, State.resetWith_crc g, State.resetWith_cnt g,
    State.resetWith_idx g⟩

/-! ### The run from a reset (R236) -/

theorem runSteps_keeps_inv {k : Nat} {s t : State} (h : Inv s) (hr : runSteps k s = .next t) : Inv t := by
  induction k generalizing s with
  | zero => cases hr; exact h
  | succ k ih =>
    obtain ⟨u, hs⟩ := everyStepCompletes s
    rw [runSteps_succ hs] at hr
    exact ih (step_keeps_inv h hs) hr

/-- INIT over a table that is not valid makes the block ready and delivers nothing (R104 to R106). -/
theorem Inv.delivers_init {s : State} {rest : List Item} (h : Inv s) (hp : s.phase = .idle) (hv : s.tv = false)
    (hin : s.inp = encode .init :: rest) : ∃ t, Delivers 257 s [] rest t ∧ Ready t := by
  have hrun := fillEqualsOneStepFill s _ rest h.tableWf hp hv hin (decode_encode .init)
  exact ⟨_, ⟨hrun, rfl, (List.append_nil _).symm⟩, runSteps_keeps_inv h hrun, hp, rfl⟩

/-- A block that stands ready with nothing left in `IN` has ended its run well. -/
theorem Ready.runEndedWell {s : State} (h : Ready s) (hin : s.inp = []) : RunEndedWell s :=
  ⟨⟨hin, h.inv.phase_ne_init h.valid⟩, h.idle, h.inv.err_eq_none (by simp [h.idle])⟩

/-- Settles O53: the initialisation makes the block ready, from where the operations run one after the other. -/
theorem dutifulHostsRunEndsWell : Obligations.DutifulHostsRunEndsWell := by
  intro g ops hw ho
  have hreset : Inv { State.resetWith g with inp := itemsOf (.init :: opsProgram ops) } := (inv_resetWith hw).of_streams _ _ _
  obtain ⟨t, hinit, ht⟩ := hreset.delivers_init rfl rfl rfl
  obtain ⟨u, hops, hu⟩ := ht.delivers_ops (rest := []) ho (hinit.inp.trans (List.append_nil _).symm)
  have hall := hinit.append hops
  exact ⟨u, hall.run, hu.runEndedWell hall.inp, hu.valid, hall.out⟩

end Sys2Proof.Machine
end
